-- ==== Sys2Proof/Word.lean ====
section
/-! DEFINITION. The fixed-width values of the spec: `uN` of 00_scope.md R7 as bit vectors. -/

namespace Sys2Proof

/-- u8: an archive byte, a slot byte, a bit-history code. -/
abbrev Byte := BitVec 8

/-- u16 or s16: an immediate, a state-map entry, a mixer input. -/
abbrev Half := BitVec 16

/-- u32 or s32: a command word, a result word, a weight, an interval bound. -/
abbrev Word := BitVec 32

/-- u64: a fingerprint, a wide counter. -/
abbrev Long := BitVec 64

end Sys2Proof
end

