-- ==== Sys2Proof/Syntax.lean ====
section
/-! DEFINITION. The commands of PAQ8PX-CORE, one constructor per row of spec/opcode_table.json (30_encoding.md R135),
each with the operand fields of its format (R133). -/

namespace Sys2Proof

inductive Instr where
  | nop
  | startEnc
  | startDec
  | flush
  | stop
  | encBit (imm : Half)
  | decBit
  | peekP
  | readReg (imm : Half)
  | bhQuery (code : Byte)
  | cmSet (lane : Byte) (fp : Long)
  | cmMix
  | cmSetScale (imm : Half)
  | mxAdd (imm : Half)
  | mxSelect (bank : Byte) (ctx : Half)
  | mxSetN (imm : Half)
  | mxSetActive (imm : Half)
  | mxSetLr (imm : Half)
  | mxSetScale (imm : Half)
  | apmSetCtx (imm : Half)
  | apmSetRate (imm : Half)
  | apmEnable (imm : Half)
  | dmcMix
  | dmcSetScale (imm : Half)
deriving DecidableEq, Repr

end Sys2Proof
end

