-- ==== Sys2Proof/Decode.lean ====
section
/-! DEFINITION. The command encoding of 30_encoding.md: the decoder, total on every list of words and rejecting by
name, and after it the encoder. -/

namespace Sys2Proof

/-- The five formats of 30_encoding.md R133. -/
inductive Format where
  | f0
  | fi
  | fs
  | fl
  | fb
deriving DecidableEq, Repr

/-- What the words at the head of the command port are (30_encoding.md R138). -/
inductive Verdict where
  /-- A command of R135 with its operands. -/
  | command (i : Instr)
  /-- OP is not in the map of R135 (R136): E_ILLEGAL. -/
  | illegal (hdr : Word)
  /-- A legal OP with a nonzero bit in a reserved field (R136): E_RESV. -/
  | reserved (hdr : Word)
  /-- Not all of the command's words are there yet (20_memory.md R102). -/
  | incomplete
deriving DecidableEq, Repr

/-- OP = header[31:24] (R131). -/
def opOf (hdr : Word) : Byte := hdr.extractLsb' 24 8

/-- IMM16 and CTX, header[15:0] (R133). -/
def immOf (hdr : Word) : Half := hdr.extractLsb' 0 16

/-- BANK, header[23:16] (R133). -/
def bankOf (hdr : Word) : Byte := hdr.extractLsb' 16 8

/-- LANE and STATE, header[7:0] (R133). -/
def lowByteOf (hdr : Word) : Byte := hdr.extractLsb' 0 8

/-- The length of a command, decided by OP alone (R132). -/
def wordsOf (hdr : Word) : Nat := if opOf hdr = 0x20#8 then 3 else 1

/-- The reserved bits of a format as a mask of the header (R133). -/
def reservedMask : Format → Word
  | .f0 => 0x00FFFFFF#32
  | .fi => 0x00FF0000#32
  | .fs => 0x00000000#32
  | .fl => 0x00FFFF00#32
  | .fb => 0x00FFFF00#32

/-- The opcode map of R135: the format that OP names and the command, its operands read from the header and from the
payload words P0 and P1. -/
def commandOf (hdr p0 p1 : Word) : Option (Format × Instr) :=
  match (opOf hdr).toNat with
  | 0x00 => some (.f0, .nop)
  | 0x01 => some (.f0, .startEnc)
  | 0x02 => some (.f0, .startDec)
  | 0x03 => some (.f0, .flush)
  | 0x04 => some (.f0, .stop)
  | 0x05 => some (.fi, .encBit (immOf hdr))
  | 0x06 => some (.f0, .decBit)
  | 0x07 => some (.f0, .peekP)
  | 0x08 => some (.fi, .readReg (immOf hdr))
  | 0x10 => some (.fb, .bhQuery (lowByteOf hdr))
  | 0x20 => some (.fl, .cmSet (lowByteOf hdr) (p1 ++ p0))
  | 0x21 => some (.f0, .cmMix)
  | 0x22 => some (.fi, .cmSetScale (immOf hdr))
  | 0x30 => some (.fi, .mxAdd (immOf hdr))
  | 0x31 => some (.fs, .mxSelect (bankOf hdr) (immOf hdr))
  | 0x32 => some (.fi, .mxSetN (immOf hdr))
  | 0x33 => some (.fi, .mxSetActive (immOf hdr))
  | 0x34 => some (.fi, .mxSetLr (immOf hdr))
  | 0x35 => some (.fi, .mxSetScale (immOf hdr))
  | 0x38 => some (.fi, .apmSetCtx (immOf hdr))
  | 0x39 => some (.fi, .apmSetRate (immOf hdr))
  | 0x3A => some (.fi, .apmEnable (immOf hdr))
  | 0x40 => some (.f0, .dmcMix)
  | 0x41 => some (.fi, .dmcSetScale (immOf hdr))
  | _ => none

/-- The verdict on the words of one command that are all there (R136, R138): E_ILLEGAL before E_RESV. -/
def decodeWords (hdr p0 p1 : Word) : Verdict :=
  match commandOf hdr p0 p1 with
  | none => .illegal hdr
  | some (f, i) => if hdr &&& reservedMask f = 0 then .command i else .reserved hdr

/-- Decoding of the head of a word stream. A payload word is never decoded as a header (R132). -/
def decode : List Word → Verdict
  | [] => .incomplete
  | hdr :: rest =>
    if rest.length + 1 < wordsOf hdr then .incomplete else decodeWords hdr (rest.getD 0 0) (rest.getD 1 0)

/-- The opcode of R135. -/
def Instr.opcode : Instr → Byte
  | .nop => 0x00
  | .startEnc => 0x01
  | .startDec => 0x02
  | .flush => 0x03
  | .stop => 0x04
  | .encBit _ => 0x05
  | .decBit => 0x06
  | .peekP => 0x07
  | .readReg _ => 0x08
  | .bhQuery _ => 0x10
  | .cmSet _ _ => 0x20
  | .cmMix => 0x21
  | .cmSetScale _ => 0x22
  | .mxAdd _ => 0x30
  | .mxSelect _ _ => 0x31
  | .mxSetN _ => 0x32
  | .mxSetActive _ => 0x33
  | .mxSetLr _ => 0x34
  | .mxSetScale _ => 0x35
  | .apmSetCtx _ => 0x38
  | .apmSetRate _ => 0x39
  | .apmEnable _ => 0x3A
  | .dmcMix => 0x40
  | .dmcSetScale _ => 0x41

/-- The operand fields header[23:0] of R133, reserved fields zero. -/
def Instr.operandBits : Instr → BitVec 24
  | .encBit imm | .readReg imm | .cmSetScale imm | .mxAdd imm | .mxSetN imm | .mxSetActive imm | .mxSetLr imm
  | .mxSetScale imm | .apmSetCtx imm | .apmSetRate imm | .apmEnable imm | .dmcSetScale imm => imm.setWidth 24
  | .bhQuery code => code.setWidth 24
  | .cmSet lane _ => lane.setWidth 24
  | .mxSelect bank ctx => bank ++ ctx
  | .nop | .startEnc | .startDec | .flush | .stop | .decBit | .peekP | .cmMix | .dmcMix => 0

/-- The header word of a command (R131, R133). -/
def Instr.header (i : Instr) : Word := i.opcode ++ i.operandBits

/-- The payload words: P0 = FP[31:0], then P1 = FP[63:32], for CM_SET alone (R132, R133, 20_memory.md R109). -/
def Instr.payload : Instr → List Word
  | .cmSet _ fp => [fp.extractLsb' 0 32, fp.extractLsb' 32 32]
  | .nop | .startEnc | .startDec | .flush | .stop | .encBit _ | .decBit | .peekP | .readReg _ | .bhQuery _ => []
  | .cmMix | .cmSetScale _ | .mxAdd _ | .mxSelect _ _ | .mxSetN _ | .mxSetActive _ | .mxSetLr _ | .mxSetScale _ => []
  | .apmSetCtx _ | .apmSetRate _ | .apmEnable _ | .dmcMix | .dmcSetScale _ => []

/-- The words of a command. -/
def encode (i : Instr) : List Word := i.header :: i.payload

/-- How many words a command has (R132). -/
def Instr.words (i : Instr) : Nat := (encode i).length

/-- The words of an instruction whose bits are `w`, numbered as spec/opcode_table.json numbers them: the header is
bits 31..0, P0 bits 63..32, P1 bits 95..64; every bit from `nbits` on is 0. The words a one-word command has not are
left out. -/
def tableWords (nbits w : Nat) : List Word :=
  let v := w % 2 ^ nbits
  let hdr := BitVec.ofNat 32 v
  [hdr, BitVec.ofNat 32 (v / 2 ^ 32), BitVec.ofNat 32 (v / 2 ^ 64)].take (wordsOf hdr)

/-- The instruction the decoder reads from a row's bits. -/
def decodeTableWord (nbits w : Nat) : Option Instr :=
  match decode (tableWords nbits w) with
  | .command i => some i
  | _ => none

end Sys2Proof
end

