-- ==== Sys2Proof/Config.lean ====
section
/-! DEFINITION. What a builder fixes (00_scope.md R4, R5): the configuration record CFG, and the one value the
spec leaves open for good (10_state.md R57). -/

namespace Sys2Proof

/-- One row of BH_TABLE (42_bithistory.md R231): the next states, the two counts and the young flag of a code. -/
structure BhRow where
  next0 : Byte
  next1 : Byte
  n0 : Byte
  n1 : Byte
  young : Bool
deriving DecidableEq, Repr

/-- The configuration record CFG of 00_scope.md R5. No command writes it. `bhTable` holds the rows of the used
codes, so BH_NS is its length (42_bithistory.md R231). DMC_N is 10 and has no field. -/
structure Cfg where
  level : Nat
  cmLog2b : Nat
  cmSlots : Nat
  cmLanes : Nat
  cmByteHist : Bool
  mxMaxN : Nat
  mxNsel : Nat
  mxKsel : Nat
  apmNctx : Nat
  smRate : Nat
  dmcCap : List Nat
  dmcThrInit : List Nat
  dmcThrCap : List Nat
  dmcResettable : List Bool
  bhTable : List BhRow
deriving DecidableEq, Repr

/-- DMC_N of 00_scope.md R5: "10 (fixed)". -/
def dmcN : Nat := 10

/-- K of 43_contextmap.md R251: the inputs each lane pushes at a CM_MIX. -/
def Cfg.laneK (c : Cfg) : Nat := if c.cmByteHist then 3 else 1

/-- DMC_CAP[i] (00_scope.md R5). -/
def Cfg.cap (c : Cfg) (i : Nat) : Nat := c.dmcCap.getD i 0

/-- DMC_THRINIT[i] (00_scope.md R5). -/
def Cfg.thrInit (c : Cfg) (i : Nat) : Nat := c.dmcThrInit.getD i 0

/-- DMC_THRCAP[i] (00_scope.md R5). -/
def Cfg.thrCap (c : Cfg) (i : Nat) : Nat := c.dmcThrCap.getD i 0

/-- DMC_RESETTABLE[i] (00_scope.md R5). -/
def Cfg.resettable (c : Cfg) (i : Nat) : Bool := c.dmcResettable.getD i false

/-- A free value: what entry `k` of MXIN holds when nothing has written it since hardware reset (10_state.md R57:
"entries unspecified and never read before written"; 93_implementation_defined.md I7). DESIGN CHOICE, log 4. -/
opaque Config.mxinUnwritten : Nat → Half

end Sys2Proof
end

