-- ==== Sys2Proof/Machine/BitHistory.lean ====
section
/-! DEFINITION. The bit-history state machine (42_bithistory.md): the functions over BH_TABLE (R231, R235) and the
default table (R234). -/

namespace Sys2Proof.Machine

/-- A row from the columns n0, n1, young, next0, next1 of the table of R234. -/
def bhRow (n0 n1 young next0 next1 : Nat) : BhRow :=
  { next0 := BitVec.ofNat 8 next0, next1 := BitVec.ofNat 8 next1, n0 := BitVec.ofNat 8 n0, n1 := BitVec.ofNat 8 n1,
    young := young == 1 }

/-- Codes 0 to 59 of the table of 42_bithistory.md R234. -/
def bhRows0 : List BhRow := [
  bhRow 0 0 0 2 1, bhRow 0 1 0 4 3, bhRow 1 0 0 6 5, bhRow 0 2 0 8 7, bhRow 1 1 0 10 9,
  bhRow 1 1 1 10 9, bhRow 2 0 0 12 11, bhRow 0 3 0 8 13, bhRow 1 2 0 16 15, bhRow 1 2 1 16 15,
  bhRow 2 1 0 18 17, bhRow 2 1 1 18 17, bhRow 3 0 0 20 11, bhRow 0 4 0 14 21, bhRow 1 3 0 16 23,
  bhRow 1 3 1 16 23, bhRow 2 2 0 26 25, bhRow 2 2 1 26 25, bhRow 3 1 0 28 17, bhRow 3 1 1 28 17,
  bhRow 4 0 0 30 19, bhRow 0 5 0 14 31, bhRow 1 4 0 24 33, bhRow 1 4 1 24 33, bhRow 2 3 0 26 35,
  bhRow 2 3 1 26 35, bhRow 3 2 0 38 25, bhRow 3 2 1 38 25, bhRow 4 1 0 40 27, bhRow 4 1 1 40 27,
  bhRow 5 0 0 42 19, bhRow 0 6 0 22 43, bhRow 1 5 0 24 45, bhRow 1 5 1 24 45, bhRow 2 4 0 36 47,
  bhRow 2 4 1 36 47, bhRow 3 3 0 38 35, bhRow 3 3 1 38 35, bhRow 4 2 0 52 37, bhRow 4 2 1 52 37,
  bhRow 5 1 0 54 27, bhRow 5 1 1 54 27, bhRow 6 0 0 56 29, bhRow 0 7 0 22 57, bhRow 1 6 0 34 59,
  bhRow 1 6 1 34 59, bhRow 2 5 0 36 61, bhRow 2 5 1 36 61, bhRow 3 4 0 50 47, bhRow 3 4 1 50 47,
  bhRow 4 3 0 52 49, bhRow 4 3 1 52 49, bhRow 5 2 0 68 37, bhRow 5 2 1 68 37, bhRow 6 1 0 70 39,
  bhRow 6 1 1 70 39, bhRow 7 0 0 72 29, bhRow 0 8 0 32 73, bhRow 1 7 0 34 75, bhRow 1 7 1 34 75]

/-- Codes 60 to 119 of the table of 42_bithistory.md R234. -/
def bhRows60 : List BhRow := [
  bhRow 2 6 0 48 77, bhRow 2 6 1 48 77, bhRow 3 5 0 50 61, bhRow 3 5 1 50 61, bhRow 4 4 0 66 63,
  bhRow 4 4 1 66 63, bhRow 5 3 0 68 49, bhRow 5 3 1 68 49, bhRow 6 2 0 86 51, bhRow 6 2 1 86 51,
  bhRow 7 1 0 88 39, bhRow 7 1 1 88 39, bhRow 8 0 0 90 41, bhRow 0 9 0 32 91, bhRow 1 8 0 46 93,
  bhRow 1 8 1 46 93, bhRow 2 7 0 48 95, bhRow 2 7 1 48 95, bhRow 3 6 0 64 77, bhRow 3 6 1 64 77,
  bhRow 4 5 0 66 79, bhRow 4 5 1 66 79, bhRow 5 4 0 84 63, bhRow 5 4 1 84 63, bhRow 6 3 0 86 65,
  bhRow 6 3 1 86 65, bhRow 7 2 0 102 51, bhRow 7 2 1 102 51, bhRow 8 1 0 104 53, bhRow 8 1 1 104 53,
  bhRow 9 0 0 106 41, bhRow 0 10 0 44 107, bhRow 1 9 0 46 109, bhRow 1 9 1 46 109, bhRow 2 8 0 62 111,
  bhRow 2 8 1 62 111, bhRow 3 7 0 64 95, bhRow 3 7 1 64 95, bhRow 4 6 0 82 97, bhRow 6 4 1 100 81,
  bhRow 7 3 0 102 65, bhRow 7 3 1 102 65, bhRow 8 2 0 118 67, bhRow 8 2 1 118 67, bhRow 9 1 0 120 53,
  bhRow 9 1 1 120 53, bhRow 10 0 0 122 55, bhRow 0 11 0 44 123, bhRow 1 10 0 60 125, bhRow 1 10 1 60 125,
  bhRow 2 9 0 62 127, bhRow 2 9 1 62 127, bhRow 3 8 0 80 111, bhRow 3 8 1 80 111, bhRow 4 7 0 82 113,
  bhRow 7 4 1 116 81, bhRow 8 3 0 118 83, bhRow 8 3 1 118 83, bhRow 9 2 0 130 67, bhRow 9 2 1 130 67]

/-- Codes 120 to 179 of the table of 42_bithistory.md R234. -/
def bhRows120 : List BhRow := [
  bhRow 10 1 0 132 69, bhRow 10 1 1 132 69, bhRow 11 0 0 134 55, bhRow 0 12 0 58 135, bhRow 1 11 0 60 137,
  bhRow 1 11 1 60 137, bhRow 2 10 0 78 139, bhRow 2 10 1 78 139, bhRow 3 9 0 80 127, bhRow 9 3 1 130 83,
  bhRow 10 2 0 142 85, bhRow 10 2 1 142 85, bhRow 11 1 0 144 69, bhRow 11 1 1 144 69, bhRow 12 0 0 146 71,
  bhRow 0 13 0 58 147, bhRow 1 12 0 76 149, bhRow 1 12 1 76 149, bhRow 2 11 0 78 151, bhRow 2 11 1 78 151,
  bhRow 3 10 0 98 139, bhRow 10 3 1 142 99, bhRow 11 2 0 154 85, bhRow 11 2 1 154 85, bhRow 12 1 0 156 87,
  bhRow 12 1 1 156 87, bhRow 13 0 0 158 71, bhRow 0 14 0 74 159, bhRow 1 13 0 76 161, bhRow 1 13 1 76 161,
  bhRow 2 12 0 96 163, bhRow 2 12 1 96 163, bhRow 3 11 0 98 151, bhRow 11 3 1 154 99, bhRow 12 2 0 166 101,
  bhRow 12 2 1 166 101, bhRow 13 1 0 168 87, bhRow 13 1 1 168 87, bhRow 14 0 0 170 89, bhRow 0 15 0 74 171,
  bhRow 1 14 0 94 172, bhRow 1 14 1 94 172, bhRow 2 13 0 96 173, bhRow 2 13 1 96 173, bhRow 3 12 0 114 163,
  bhRow 12 3 1 166 115, bhRow 13 2 0 176 101, bhRow 13 2 1 176 101, bhRow 14 1 0 177 103, bhRow 14 1 1 177 103,
  bhRow 15 0 0 178 89, bhRow 0 16 0 92 179, bhRow 1 15 1 94 180, bhRow 2 14 1 112 181, bhRow 3 13 0 114 173,
  bhRow 13 3 1 176 115, bhRow 14 2 0 182 117, bhRow 15 1 0 183 103, bhRow 16 0 0 184 105, bhRow 0 17 0 92 185]

/-- Codes 180 to 238 of the table of 42_bithistory.md R234. -/
def bhRows180 : List BhRow := [
  bhRow 1 16 1 110 186, bhRow 2 15 1 112 187, bhRow 15 2 0 188 117, bhRow 16 1 0 189 119, bhRow 17 0 0 190 105,
  bhRow 0 18 0 108 191, bhRow 1 17 1 110 192, bhRow 2 16 1 128 193, bhRow 16 2 0 194 129, bhRow 17 1 0 195 119,
  bhRow 18 0 0 196 121, bhRow 0 19 0 108 197, bhRow 1 18 1 126 198, bhRow 2 17 1 128 199, bhRow 17 2 0 200 129,
  bhRow 18 1 0 201 131, bhRow 19 0 0 202 121, bhRow 0 20 0 124 203, bhRow 1 19 1 126 204, bhRow 2 18 1 140 205,
  bhRow 18 2 0 206 141, bhRow 19 1 0 207 131, bhRow 20 0 0 208 133, bhRow 0 21 0 124 209, bhRow 1 20 1 138 210,
  bhRow 2 19 1 140 211, bhRow 19 2 0 212 141, bhRow 20 1 0 213 143, bhRow 21 0 0 214 133, bhRow 0 22 0 136 215,
  bhRow 1 21 1 138 216, bhRow 2 20 1 152 217, bhRow 20 2 0 218 153, bhRow 21 1 0 219 143, bhRow 22 0 0 220 145,
  bhRow 0 23 0 136 221, bhRow 1 22 1 150 222, bhRow 2 21 1 152 223, bhRow 21 2 0 224 153, bhRow 22 1 0 225 155,
  bhRow 23 0 0 226 145, bhRow 0 24 0 148 227, bhRow 1 23 1 150 228, bhRow 2 22 1 164 229, bhRow 22 2 0 230 165,
  bhRow 23 1 0 231 155, bhRow 24 0 0 232 157, bhRow 0 25 0 148 233, bhRow 1 24 1 162 234, bhRow 2 23 1 164 235,
  bhRow 23 2 0 236 165, bhRow 24 1 0 237 167, bhRow 25 0 0 238 157, bhRow 0 26 0 160 233, bhRow 1 25 1 162 234,
  bhRow 2 24 1 174 235, bhRow 24 2 0 236 175, bhRow 25 1 0 237 167, bhRow 26 0 0 238 169]

/-- The default BH_TABLE of R234; its 239 rows are the used codes. -/
def defaultBhTable : List BhRow := bhRows0 ++ bhRows60 ++ bhRows120 ++ bhRows180

/-- Row `code` of a table, that of state 0 for an unused code (R231). -/
def bhRowOr0 (t : List BhRow) (code : Byte) : BhRow := (t[code.toNat]?).getD (t.getD 0 (bhRow 0 0 0 0 0))

/-- NEXT(s, b) of R231: "next_b(s) if s < BH_NS, else next_b(0)". -/
def bhNext (t : List BhRow) (code : Byte) (b : Bool) : Byte :=
  let r := bhRowOr0 t code
  if b then r.next1 else r.next0

/-- COUNT(s, b) of R231: 0 for an unused code. -/
def bhCount (t : List BhRow) (code : Byte) (b : Bool) : Byte :=
  match t[code.toNat]? with
  | some r => if b then r.n1 else r.n0
  | none => 0

/-- YOUNG(s) of R231: 0 for an unused code. -/
def bhYoung (t : List BhRow) (code : Byte) : Bool :=
  match t[code.toNat]? with
  | some r => r.young
  | none => false

/-- The uncertain predicate of R235: both counts are nonzero (90_conflicts.md C3). -/
def bhUncertain (t : List BhRow) (code : Byte) : Bool := bhCount t code false != 0 && bhCount t code true != 0

/-- disc(n) of the generation rule R233. -/
def bhDisc (n : Nat) : Nat := if n ≤ 2 then n else n / 2 + 1

/-- The generation rule R233 of the default table: the triple (n0, n1, young) after bit `b`. -/
def bhGenerate (n0 n1 : Nat) (b : Bool) : Nat × Nat × Bool :=
  let a := if b then n1 else n0
  let o := bhDisc (if b then n0 else n1)
  let a' := min (a + 1) (26 - o)
  let young := b && a' != 0 && o != 0
  if b then (o, a', young) else (a', o, young)

end Sys2Proof.Machine
end

