-- ==== Sys2Proof/WellFormed.lean ====
section
/-! DEFINITION. Well-formedness: of a configuration (00_scope.md R6: what builds a core), of a register index
(10_state.md R53) and of a command's operands (the "range" column of 60_exceptions.md R404). -/

namespace Sys2Proof

/-- `lo <= v <= hi`. -/
def within (lo hi v : Nat) : Bool := decide (lo ≤ v) && decide (v ≤ hi)

/-- The scalar fields of 00_scope.md R5 are inside their legal values. -/
def Cfg.scalarsOk (c : Cfg) : Bool :=
  within 0 9 c.level && within 1 28 c.cmLog2b && within 3 15 c.cmSlots && within 1 32 c.cmLanes &&
  within 1 65535 c.mxMaxN && within 1 8 c.mxNsel && within 1 65536 c.mxKsel && within 1 65536 c.apmNctx &&
  within 1 15 c.smRate

/-- A power of two in 2^16..2^28 (00_scope.md R5, R6; 90_conflicts.md C11). -/
def capOk (n : Nat) : Bool := (List.range 13).any fun k => n == 65536 * 2 ^ k

/-- The per-instance fields of instance `i` are inside the legal values of 00_scope.md R5. -/
def Cfg.instanceOk (c : Cfg) (i : Nat) : Bool :=
  capOk (c.cap i) && within 1 65535 (c.thrInit i) && within (c.thrInit i) 2147483647 (c.thrCap i)

/-- Ten instances, each with legal parameters (00_scope.md R5, R6). -/
def Cfg.dmcOk (c : Cfg) : Bool :=
  (c.dmcCap.length == dmcN && c.dmcThrInit.length == dmcN && c.dmcThrCap.length == dmcN && c.dmcResettable.length == dmcN)
    && (List.range dmcN).all c.instanceOk

/-- Constraint 1 of 42_bithistory.md R232. -/
def bhSizeOk (t : List BhRow) : Bool := within 1 256 t.length

/-- Constraint 2 of 42_bithistory.md R232: state 0 has seen nothing. -/
def bhStartOk : List BhRow → Bool
  | [] => false
  | r :: _ => r.n0 == 0 && r.n1 == 0 && !r.young

/-- Constraint 3 of 42_bithistory.md R232: no transition leads to state 0 or to an unused code. -/
def bhNextOk (t : List BhRow) : Bool :=
  t.all fun r => within 1 (t.length - 1) r.next0.toNat && within 1 (t.length - 1) r.next1.toNat

/-- Constraint 4 of 42_bithistory.md R232: every state but 0 has seen a bit. -/
def bhCountsOk (t : List BhRow) : Bool := t.tail.all fun r => decide (1 ≤ r.n0.toNat + r.n1.toNat)

/-- The constraints of 42_bithistory.md R232 on BH_TABLE. -/
def bhTableOk (t : List BhRow) : Bool := bhSizeOk t && bhStartOk t && bhNextOk t && bhCountsOk t

/-- The construction-time check of 00_scope.md R6: only a configuration that passes it builds a core. -/
def Cfg.wf (c : Cfg) : Bool := c.scalarsOk && c.dmcOk && bhTableOk c.bhTable

/-- The indices that 10_state.md R53 defines. -/
def Cfg.definesReg (c : Cfg) (i : Nat) : Bool :=
  within 0x000 0x00D i || within 0x010 0x018 i || within 0x020 0x023 i || within 0x030 0x034 i ||
  (decide (0x038 ≤ i) && decide (i < 0x038 + c.mxNsel)) || within 0x040 0x042 i || within 0x048 0x04A i || i == 0x050 ||
  within 0x060 0x069 i || within 0x070 0x079 i || within 0x080 0x089 i || within 0x090 0x099 i || within 0x0A0 0x0A9 i ||
  within 0x0B0 0x0B9 i || within 0x0C0 0x0C9 i || within 0x0D0 0x0D9 i || within 0x0E0 0x0E9 i

/-- The operands a host may give each command under CFG: the "range" column of 60_exceptions.md R404. Every operand
field is a bit vector of its encoding's width (30_encoding.md R133), so there is nothing else to check on a command. -/
def Instr.operandsLegal (c : Cfg) : Instr → Bool
  | .encBit imm => within 0 1 imm.toNat
  | .readReg imm => c.definesReg imm.toNat
  | .cmSet lane _ => decide (lane.toNat < c.cmLanes)
  | .mxSelect bank ctx => decide (bank.toNat < c.mxNsel) && decide (ctx.toNat < c.mxKsel)
  | .mxSetN imm => within 0 c.mxMaxN imm.toNat
  | .mxSetActive imm => within 1 c.mxNsel imm.toNat
  | .mxSetLr imm => within 0 255 imm.toNat
  | .apmSetCtx imm => decide (imm.toNat < c.apmNctx)
  | .apmSetRate imm => within 1 15 imm.toNat
  | .apmEnable imm => within 0 1 imm.toNat
  | .nop | .startEnc | .startDec | .flush | .stop | .decBit | .peekP | .bhQuery _ | .cmMix | .cmSetScale _ => true
  | .mxAdd _ | .mxSetScale _ | .dmcMix | .dmcSetScale _ => true

end Sys2Proof
end

