-- ==== Sys2Proof/Machine/Build.lean ====
section
/-! DEFINITION. The default configuration record (00_scope.md R5) for each memory level, and the level that the
model's `State.reset` is built with. -/

namespace Sys2Proof.Machine

/-- The defaults of 00_scope.md R5; LEVEL has none and is the argument. -/
def defaultCfg (level : Nat) : Cfg :=
  { level := level
    cmLog2b := 10 + level
    cmSlots := 7
    cmLanes := 16
    cmByteHist := true
    mxMaxN := 1024
    mxNsel := 4
    mxKsel := 256
    apmNctx := 1024
    smRate := 5
    dmcCap := List.replicate 8 (2 ^ (16 + level)) ++ List.replicate 2 (2 ^ (17 + level))
    dmcThrInit := [2, 3, 4, 5, 6, 7, 8, 9, 12, 16].map (1024 * ·)
    dmcThrCap := [2, 3, 4, 5, 6, 7, 8, 9, 12, 16].map (4096 * ·)
    dmcResettable := List.replicate 8 true ++ List.replicate 2 false
    bhTable := defaultBhTable }

/-- The LEVEL of the core whose state after reset `State.reset` is. DESIGN CHOICE, log 1: 92_eei_decisions.md D39
leaves LEVEL to the builder; 1 is the level at which 95_test_vectors.md runs its reset, fault and program vectors. -/
def buildLevel : Nat := 1

end Sys2Proof.Machine
end

