-- ==== Sys2Proof/Machine/Numeric.lean ====
section
/-! DEFINITION. The arithmetic and the numeric primitives every unit uses (00_scope.md R8, R20 to R25). -/

namespace Sys2Proof.Machine

/-- clamp(v, lo, hi) of R8. -/
def clamp (v lo hi : Int) : Int := if v < lo then lo else if hi < v then hi else v

/-- asr(v, n) = floor(v / 2^n) of R8. -/
def asr (v : Int) (n : Nat) : Int := v / (2 ^ n : Nat)

/-- sat16 of R8, held in its s16. -/
def sat16 (v : Int) : Half := BitVec.ofInt 16 (clamp v (-32768) 32767)

/-- sat32 of R8, held in its s32. -/
def sat32 (v : Int) : Word := BitVec.ofInt 32 (clamp v (-2147483648) 2147483647)

/-- SQ_KNOTS of R21. -/
def sqKnots : List Nat :=
  [1, 2, 3, 6, 10, 16, 27, 45, 73, 120, 194, 310, 488, 747, 1101, 1546, 2047, 2549, 2994, 3348, 3607, 3785, 3901,
   3975, 4024, 4050, 4068, 4079, 4085, 4089, 4092, 4093, 4094]

/-- squash of R21. -/
def squash (d : Int) : Nat :=
  let d := clamp d (-2047) 2047
  let w := (d % 128).toNat
  let i := (asr d 7 + 16).toNat
  (sqKnots.getD i 0 * (128 - w) + sqKnots.getD (i + 1) 0 * w + 64) / 2 ^ 7

/-- The number of points d = -2047, -2046, … whose squash is below `p`, found by bisection: `acc` points are known to
be, and 2^bits more are tried (squash is monotone, R21). -/
def countBelow (p : Nat) : Nat → Nat → Nat
  | 0, acc => acc
  | bits + 1, acc =>
    let t := acc + 2 ^ bits
    if t ≤ 4095 ∧ squash ((t : Int) - 2048) < p then countBelow p bits t else countBelow p bits acc

/-- How many of the 4095 points of [-2047, 2047] have a squash below `p`. -/
def pointsBelow (p : Nat) : Nat := countBelow p 12 0

/-- stretch of R22: the least d in [-2047, 2047] that minimises |squash(d) - p|. The nearest values of squash to `p` are
the greatest one below `p` and the least one not below it; the lower wins a tie, since the least d is taken. -/
def stretch (p : Nat) : Int :=
  let c := pointsBelow p
  if c = 0 then -2047
  else
    let v := squash ((c : Int) - 2048)
    if c = 4095 ∨ p - v ≤ squash ((c : Int) - 2047) - p then (pointsBelow v : Int) - 2047 else (c : Int) - 2047

/-- clampP of R23. -/
def clampP (p : Nat) : Nat := max 1 (min p 4094)

/-- smP of R24: the 12-bit reading of a state-map or APM entry. -/
def smP (e : Half) : Nat := clampP (e.toNat / 2 ^ 4)

/-- adapt16 of R25. -/
def adapt16 (e : Half) (y : Bool) (r : Nat) : Half :=
  let target : Int := if y then 65535 else 0
  BitVec.ofInt 16 ((e.toNat : Int) + asr (target - (e.toNat : Int)) r)

/-- The bit y as a number. -/
def bitNat (y : Bool) : Nat := if y then 1 else 0

/-- The sum of f(0), …, f(n - 1), exact (44_mixer_apm.md R303). -/
def sumTo (f : Nat → Int) : Nat → Int
  | 0 => 0
  | n + 1 => sumTo f n + f n

/-- v scaled by a Q8 factor: asr(v * scale, 8) (43_contextmap.md R260, 45_dmc.md R354). -/
def scaleQ8 (v : Int) (scale : Half) : Int := asr (v * (scale.toNat : Int)) 8

end Sys2Proof.Machine
end

