-- ==== Sys2Proof/Machine/Table.lean ====
section
/-! DEFINITION. The internal tables of 20_memory.md R100 as sparse data in one canonical form: the listed indices
strictly rising, no entry equal to what an unlisted index holds. That is the table's initial value, which the spec gives
(10_state.md R58 to R64). -/

namespace Sys2Proof.Machine

/-- A table: its listed entries. -/
abbrev Table (α : Type) := List (Nat × α)

/-- T[k]: the listed entry, or the initial value `d k`. -/
def tableGet {α : Type} (d : Nat → α) : Table α → Nat → α
  | [], k => d k
  | (a, v) :: t, k => if a = k then v else tableGet d t k

/-- Entry k put at its place among rising indices. -/
def tableInsert {α : Type} (k : Nat) (v : α) : Table α → Table α
  | [] => [(k, v)]
  | (a, u) :: t => if k < a then (k, v) :: (a, u) :: t else (a, u) :: tableInsert k v t

/-- The table without a listed entry k. -/
def tableErase {α : Type} (k : Nat) (t : Table α) : Table α := t.filter fun e => e.1 != k

/-- T[k] <- v. Writing the initial value removes the entry, so equal tables are equal data. -/
def tableSet {α : Type} [DecidableEq α] (d : Nat → α) (t : Table α) (k : Nat) (v : α) : Table α :=
  if v = d k then tableErase k t else tableInsert k v (tableErase k t)

/-- The listed indices rise strictly, each above `lo` when there is one. -/
def tableRising {α : Type} : Option Nat → Table α → Bool
  | _, [] => true
  | lo, (a, _) :: t => (lo.all fun l => decide (l < a)) && tableRising (some a) t

/-- The canonical form of a table whose initial values are `d`. -/
def tableWf {α : Type} [DecidableEq α] (d : Nat → α) (t : Table α) : Bool :=
  tableRising none t && t.all fun e => decide (e.2 ≠ d e.1)

/-- Every element of a list with its index: the elementwise update of per-lane and per-instance registers. -/
def mapFrom {α β : Type} (f : Nat → α → β) : Nat → List α → List β
  | _, [] => []
  | i, a :: l => f i a :: mapFrom f (i + 1) l

end Sys2Proof.Machine
end

