-- ==== Sys2Proof/Machine/Units.lean ====
section
/-! DEFINITION. The records State is made of, one per unit (00_scope.md R1) and one for the ports. -/

namespace Sys2Proof.Machine

/-- STATUS.MODE (10_state.md R44): "3 never occurs". -/
inductive Mode where
  | idle
  | enc
  | dec
deriving DecidableEq, Repr

/-- ERR_CODE (60_exceptions.md R401): "Codes 8 to 255 are never written". -/
inductive ErrCode where
  | none
  | illegal
  | resv
  | mode
  | phase
  | range
  | ovf
  | count
deriving DecidableEq, Repr

/-- The coder registers X1, X2, X and LAST_P (10_state.md R48). -/
structure Coder where
  x1 : Word
  x2 : Word
  x : Word
  lastP : BitVec 12
deriving DecidableEq, Repr

/-- The mixer: its control registers (10_state.md R49), MXIN (R57), the weights W and F (R58). `inputs` lists the
entries of MXIN that have been written since hardware reset. -/
structure Mixer where
  n : Half
  count : Half
  active : BitVec 4
  lr : Byte
  scale : Half
  sel : List Half
  inputs : List Half
  weights : Table Word
  blend : List Word
deriving DecidableEq, Repr

/-- The APM: APM_CTX, APM_RATE, APM_EN (10_state.md R50) and the table A (R59). -/
structure Apm where
  ctx : Half
  rate : BitVec 4
  enabled : Bool
  entries : Table Half
deriving DecidableEq, Repr

/-- A slot (10_state.md R60, 43_contextmap.md R252): CHK and BYTES[0..6]. -/
structure Slot where
  chk : Half
  b0 : Byte
  b1 : Byte
  b2 : Byte
  b3 : Byte
  b4 : Byte
  b5 : Byte
  b6 : Byte
deriving DecidableEq, Repr

/-- The MRU pair of a bucket (10_state.md R60); 15 means none. -/
structure Mru where
  mru0 : BitVec 4
  mru1 : BitVec 4
deriving DecidableEq, Repr

/-- A slot handle (10_state.md R61). -/
structure Handle where
  bucket : BitVec 28
  slot : BitVec 4
deriving DecidableEq, Repr

/-- The registers of a lane (10_state.md R61). -/
structure Lane where
  valid : Bool
  fp : Long
  h0 : Handle
  cur : Handle
deriving DecidableEq, Repr

/-- The context map: CM_SCALE (10_state.md R51), the lanes (R61), the bucket table (R60), the state maps SM1 and SM2
(R62). -/
structure ContextMap where
  scale : Half
  lanes : List Lane
  slots : Table Slot
  mru : Table Mru
  sm1 : Table Half
  sm2 : Table Half
deriving DecidableEq, Repr

/-- A DMC node (10_state.md R63, 45_dmc.md R350). -/
structure Node where
  c0 : Half
  c1 : Half
  nx0 : BitVec 28
  nx1 : BitVec 28
  st : Byte
deriving DecidableEq, Repr

/-- A DMC instance: its registers (10_state.md R52), node array (R63) and state map (R64). -/
structure DmcInst where
  top : Word
  curr : BitVec 28
  thr : Word
  extra : Long
  nodes : Table Node
  smd : Table Half
deriving DecidableEq, Repr

/-- The DMC forest: DMC_SCALE (10_state.md R51) and the ten instances. -/
structure Forest where
  scale : Half
  insts : List DmcInst
deriving DecidableEq, Repr

/-- The ports (20_memory.md R102 to R105), each list in the order written or appended. -/
structure Ports where
  cmd : List Word
  result : List Word
  archIn : List Byte
  eos : Bool
  archOut : List Byte
deriving DecidableEq, Repr

/-- The record `pr` of 44_mixer_apm.md R304: the outputs of one PREDICT. It is no state. -/
structure Prediction where
  s : List Int
  p : List Nat
  sMix : Int
  pMix : Nat
  bucket : Nat
  pFinal : Nat
deriving DecidableEq, Repr

end Sys2Proof.Machine
end

