-- ==== Sys2Proof/Machine/Init.lean ====
section
/-! DEFINITION. The initial values of the units: what a session start writes (41_coder.md R201, the START column of
10_state.md), what an unlisted table entry holds, and what hardware reset writes besides (70_reset_and_hazards.md R440,
R441). -/

namespace Sys2Proof.Machine

/-- The coder after reset and START (10_state.md R48). -/
def freshCoder : Coder := { x1 := 0, x2 := 0xFFFFFFFF, x := 0, lastP := 0 }

/-- The initial value of every W entry (10_state.md R58). -/
def weightInit (_ : Nat) : Word := 0

/-- F after reset and START: every F[j] is floor(65536 / MX_ACTIVE) (10_state.md R58). -/
def freshBlend (c : Cfg) (active : BitVec 4) : List Word := List.replicate c.mxNsel (BitVec.ofNat 32 (65536 / active.toNat))

/-- What START does to the mixer (41_coder.md R201): the control registers and MXIN are kept. -/
def freshMixer (c : Cfg) (m : Mixer) : Mixer := { m with count := 0, weights := [], blend := freshBlend c m.active }

/-- The mixer after hardware reset (70_reset_and_hazards.md R440). -/
def resetMixer (c : Cfg) : Mixer :=
  freshMixer c { n := 0, count := 0, active := 1, lr := 7, scale := 256, sel := List.replicate c.mxNsel 0, inputs := [],
                 weights := [], blend := [] }

/-- The index of A[c][k] in the APM table (20_memory.md R100). -/
def apmKey (c k : Nat) : Nat := c * 33 + k

/-- The initial value of A[c][k]: 16 × squash((k - 16) × 128) (10_state.md R59). -/
def apmInit (key : Nat) : Half := BitVec.ofNat 16 (16 * squash (((key % 33 : Nat) : Int) * 128 - 2048))

/-- What START does to the APM (41_coder.md R201). -/
def freshApm (a : Apm) : Apm := { a with entries := [] }

/-- The APM after hardware reset (70_reset_and_hazards.md R440). -/
def resetApm : Apm := { ctx := 0, rate := 7, enabled := true, entries := [] }

/-- The initial value of a slot: every CHK and BYTES entry is 0 (10_state.md R60). -/
def slotInit (_ : Nat) : Slot := { chk := 0, b0 := 0, b1 := 0, b2 := 0, b3 := 0, b4 := 0, b5 := 0, b6 := 0 }

/-- The initial MRU pair of a bucket (10_state.md R60). -/
def mruInit (_ : Nat) : Mru := { mru0 := 15, mru1 := 15 }

/-- The initial value of every state-map entry (10_state.md R62, R64). -/
def smInit (_ : Nat) : Half := 32768

/-- A cleared lane (10_state.md R61). -/
def freshLane : Lane := { valid := false, fp := 0, h0 := { bucket := 0, slot := 0 }, cur := { bucket := 0, slot := 0 } }

/-- What START does to the context map (41_coder.md R201). -/
def freshCm (c : Cfg) (m : ContextMap) : ContextMap :=
  { m with lanes := List.replicate c.cmLanes freshLane, slots := [], mru := [], sm1 := [], sm2 := [] }

/-- The context map after hardware reset (70_reset_and_hazards.md R440). -/
def resetCm (c : Cfg) : ContextMap := freshCm c { scale := 256, lanes := [], slots := [], mru := [], sm1 := [], sm2 := [] }

/-- The number of nodes of the initial graph (45_dmc.md R352): 256 trees of 255 nodes. -/
def initialTop : Nat := 65280

/-- The initial node n (45_dmc.md R352): node p × 255 + j is the bit context "previous byte p, partial byte j + 1"; from
65280 on all fields are 0. -/
def nodeInit (n : Nat) : Node :=
  if n < initialTop then
    let p := n / 255
    let j := n % 255
    if j < 127 then
      { c0 := 1024, c1 := 1024, st := 0, nx0 := BitVec.ofNat 28 (p * 255 + 2 * j + 1), nx1 := BitVec.ofNat 28 (p * 255 + 2 * j + 2) }
    else
      { c0 := 1024, c1 := 1024, st := 0, nx0 := BitVec.ofNat 28 ((2 * (j - 127) + 0) * 255),
        nx1 := BitVec.ofNat 28 ((2 * (j - 127) + 1) * 255) }
  else { c0 := 0, c1 := 0, nx0 := 0, nx1 := 0, st := 0 }

/-- DMC_INIT(i) of 45_dmc.md R352: the initial graph and its registers; the caller sets CURR, and SMD is kept. -/
def dmcInit (c : Cfg) (i : Nat) (d : DmcInst) : DmcInst :=
  { d with nodes := [], top := BitVec.ofNat 32 initialTop, thr := BitVec.ofNat 32 (c.thrInit i), extra := 0 }

/-- Instance i after reset and START (41_coder.md R201). -/
def freshInst (c : Cfg) (i : Nat) : DmcInst :=
  dmcInit c i { top := 0, curr := 0, thr := 0, extra := 0, nodes := [], smd := [] }

/-- What START does to the DMC forest (41_coder.md R201). -/
def freshForest (c : Cfg) (f : Forest) : Forest := { f with insts := (List.range dmcN).map (freshInst c) }

/-- The DMC forest after hardware reset (70_reset_and_hazards.md R440). -/
def resetForest (c : Cfg) : Forest := freshForest c { scale := 256, insts := [] }

/-- The ports after hardware reset: all emptied, EOS 0 (70_reset_and_hazards.md R440). -/
def emptyPorts : Ports := { cmd := [], result := [], archIn := [], eos := false, archOut := [] }

end Sys2Proof.Machine
end

