-- ==== Sys2Proof/Machine/State.lean ====
section
/-! DEFINITION. The architectural state (10_state.md R40), as plain data, and the state after hardware reset. -/

namespace Sys2Proof.Machine

/-- The state of the core. `cfg` is the configuration record, a parameter of the step (00_scope.md R4, log 1); every other
field is the spec's state: session control and error registers (R44, R45), the bit position (R46), the counters (R47), the
units (R48 to R64) and the ports (20_memory.md R102 to R105). -/
structure State where
  cfg : Cfg
  mode : Mode
  halt : Bool
  errCode : ErrCode
  errCmd : Word
  bpos : BitVec 3
  c0 : BitVec 9
  c1 : Byte
  bitCnt : Long
  outCnt : Word
  inCnt : Word
  coder : Coder
  mixer : Mixer
  apm : Apm
  cm : ContextMap
  dmc : Forest
  ports : Ports
deriving DecidableEq, Repr

/-- The model raises no outcome `fault`: the core's one trap is the FAULT of 60_exceptions.md R402, which sets HALT and is
a next state (`takeFault`). The type is empty. -/
inductive Fault
deriving DecidableEq, Repr

/-- Why a step has no next state. -/
inductive Refusal where
  /-- Raised by `exec` for a command whose meaning is not written yet; no arm of `exec` raises it. Safe: it stops. -/
  | notModelled (mnemonic : String)
  /-- Raised by `step` when CFG fails 00_scope.md R6: "no step relation exists for an ill-formed `CFG`". Safe: it
  stops, and no core of the spec is in such a state. -/
  | illFormedConfig
deriving DecidableEq, Repr

/-- The state after hardware reset of the core built from `c` (70_reset_and_hazards.md R440). -/
def State.resetWith (c : Cfg) : State :=
  { cfg := c
    mode := .idle
    halt := false
    errCode := .none
    errCmd := 0
    bpos := 0
    c0 := 1
    c1 := 0
    bitCnt := 0
    outCnt := 0
    inCnt := 0
    coder := freshCoder
    mixer := resetMixer c
    apm := resetApm
    cm := resetCm c
    dmc := resetForest c
    ports := emptyPorts }

/-- The state after hardware reset of a core with the default configuration; its LEVEL is a DESIGN CHOICE (log 1). -/
def State.reset : State := State.resetWith (defaultCfg buildLevel)

end Sys2Proof.Machine
end

