-- ==== Sys2Proof/Machine/Ops.lean ====
section
/-! DEFINITION. The named operations over the ports and the tables, the fault (the core's only exception) with hardware
reset (the only way out of it) beside it, MODEL_INIT, and what the host can do to the core between two commands. -/

namespace Sys2Proof.Machine

/-! ## The tables of 20_memory.md R100 -/

/-- The index of W[j][c][k]: banks, contexts below 65536, inputs below 65536. -/
def weightKey (j c k : Nat) : Nat := (j * 65536 + c) * 65536 + k

/-- W[j][c][k]. -/
def weightAt (m : Mixer) (j c k : Nat) : Word := tableGet weightInit m.weights (weightKey j c k)

/-- W[j][c][k] <- v. -/
def setWeight (m : Mixer) (j c k : Nat) (v : Word) : Mixer :=
  { m with weights := tableSet weightInit m.weights (weightKey j c k) v }

/-- F[j]. -/
def blendAt (m : Mixer) (j : Nat) : Word := m.blend.getD j 0

/-- MX_SEL[j]. -/
def selAt (m : Mixer) (j : Nat) : Nat := (m.sel.getD j 0).toNat

/-- MXIN[k]: the value last written, or the free value of an entry nothing has written (10_state.md R57, log 4). -/
def inputAt (m : Mixer) (k : Nat) : Half := (m.inputs[k]?).getD (Config.mxinUnwritten k)

/-- MXIN[k] <- v. -/
def setInput (m : Mixer) (k : Nat) (v : Half) : Mixer :=
  let known := m.inputs ++ (List.range (k + 1 - m.inputs.length)).map fun t => Config.mxinUnwritten (m.inputs.length + t)
  { m with inputs := known.set k v }

/-- A push: `MXIN[MX_COUNT] <- v; MX_COUNT <- MX_COUNT + 1` (40_pipeline.md R172). -/
def pushInput (m : Mixer) (v : Half) : Mixer := { setInput m m.count.toNat v with count := m.count + 1 }

/-- Pushes in order (40_pipeline.md R172). -/
def pushInputs (m : Mixer) (vs : List Half) : Mixer := vs.foldl pushInput m

/-- A[c][k]. -/
def apmAt (a : Apm) (c k : Nat) : Half := tableGet apmInit a.entries (apmKey c k)

/-- A[c][k] <- v. -/
def setApm (a : Apm) (c k : Nat) (v : Half) : Apm := { a with entries := tableSet apmInit a.entries (apmKey c k) v }

/-- The index of slot s of bucket b: at most 15 slots (00_scope.md R5). -/
def slotKey (b s : Nat) : Nat := b * 16 + s

/-- The slot s of bucket b: CHK[b][s] and BYTES[b][s]. -/
def slotAt (m : ContextMap) (b s : Nat) : Slot := tableGet slotInit m.slots (slotKey b s)

/-- A whole slot written. -/
def setSlot (m : ContextMap) (b s : Nat) (v : Slot) : ContextMap :=
  { m with slots := tableSet slotInit m.slots (slotKey b s) v }

/-- MRU0[b] and MRU1[b]. -/
def mruAt (m : ContextMap) (b : Nat) : Mru := tableGet mruInit m.mru b

/-- The MRU pair of a bucket written. -/
def setMru (m : ContextMap) (b : Nat) (v : Mru) : ContextMap := { m with mru := tableSet mruInit m.mru b v }

/-- BYTES[i] of a slot, i in 0..6. -/
def slotByte (t : Slot) : Nat → Byte
  | 0 => t.b0
  | 1 => t.b1
  | 2 => t.b2
  | 3 => t.b3
  | 4 => t.b4
  | 5 => t.b5
  | _ => t.b6

/-- BYTES[i] <- v in a slot, i in 0..6. -/
def setSlotByte (t : Slot) (i : Nat) (v : Byte) : Slot :=
  match i with
  | 0 => { t with b0 := v }
  | 1 => { t with b1 := v }
  | 2 => { t with b2 := v }
  | 3 => { t with b3 := v }
  | 4 => { t with b4 := v }
  | 5 => { t with b5 := v }
  | _ => { t with b6 := v }

/-- The registers of lane L. -/
def laneAt (m : ContextMap) (l : Nat) : Lane := m.lanes.getD l freshLane

/-- The registers of lane L written. -/
def setLane (m : ContextMap) (l : Nat) (v : Lane) : ContextMap := { m with lanes := m.lanes.set l v }

/-- The slot a handle names. -/
def handleSlot (m : ContextMap) (h : Handle) : Slot := slotAt m h.bucket.toNat h.slot.toNat

/-- The slot a handle names, written. -/
def setHandleSlot (m : ContextMap) (h : Handle) (v : Slot) : ContextMap := setSlot m h.bucket.toNat h.slot.toNat v

/-- The index of SM1[L][st]. -/
def sm1Key (l st : Nat) : Nat := l * 256 + st

/-- The index of SM2[L][i], i in 0..767. -/
def sm2Key (l i : Nat) : Nat := l * 768 + i

/-- SM1[L][st]. -/
def sm1At (m : ContextMap) (l st : Nat) : Half := tableGet smInit m.sm1 (sm1Key l st)

/-- SM1[L][st] <- v. -/
def setSm1 (m : ContextMap) (l st : Nat) (v : Half) : ContextMap := { m with sm1 := tableSet smInit m.sm1 (sm1Key l st) v }

/-- SM2[L][i]. -/
def sm2At (m : ContextMap) (l i : Nat) : Half := tableGet smInit m.sm2 (sm2Key l i)

/-- SM2[L][i] <- v. -/
def setSm2 (m : ContextMap) (l i : Nat) (v : Half) : ContextMap := { m with sm2 := tableSet smInit m.sm2 (sm2Key l i) v }

/-- NODE_i[n]. -/
def nodeAt (d : DmcInst) (n : Nat) : Node := tableGet nodeInit d.nodes n

/-- NODE_i[n] <- v. -/
def setNode (d : DmcInst) (n : Nat) (v : Node) : DmcInst := { d with nodes := tableSet nodeInit d.nodes n v }

/-- SMD_i[st]. -/
def smdAt (d : DmcInst) (st : Byte) : Half := tableGet smInit d.smd st.toNat

/-- SMD_i[st] <- v. -/
def setSmd (d : DmcInst) (st : Byte) (v : Half) : DmcInst := { d with smd := tableSet smInit d.smd st.toNat v }

/-! ## The ports of 20_memory.md R102 to R105 -/

/-- The first `n` words of the command port are taken (10_state.md R55, 40_pipeline.md R170). -/
def consume (n : Nat) (s : State) : State := { s with ports := { s.ports with cmd := s.ports.cmd.drop n } }

/-- Result(w) (R103). -/
def result (w : Word) (s : State) : State := { s with ports := { s.ports with result := s.ports.result ++ [w] } }

/-- OutByte(b) (R105): OUTCNT counts modulo 2^32. -/
def outByte (b : Byte) (s : State) : State :=
  { s with ports := { s.ports with archOut := s.ports.archOut ++ [b] }, outCnt := s.outCnt + 1 }

/-- OutByte of each byte in order. -/
def outBytes : List Byte → State → State
  | [], s => s
  | b :: l, s => outBytes l (outByte b s)

/-- `n` calls of InByte would all be answered (R104): the bytes are in the FIFO, or EOS = 1 pads them. -/
def available (n : Nat) (s : State) : Bool := decide (n ≤ s.ports.archIn.length) || s.ports.eos

/-- InByte() (R104). On an empty FIFO it answers the padding 0x00, which is not counted; a command that would call it
there with EOS = 0 waits instead and never calls it (log 3). -/
def inByte (s : State) : Byte × State :=
  match s.ports.archIn with
  | b :: l => (b, { s with ports := { s.ports with archIn := l }, inCnt := s.inCnt + 1 })
  | [] => (0, s)

/-- One decoder shift (41_coder.md R204): `X <- mod2^32(X << 8) | InByte()`. -/
def shiftInByte (s : State) : State :=
  let r := inByte s
  { r.2 with coder := { r.2.coder with x := (r.2.coder.x <<< 8) ||| r.1.setWidth 32 } }

/-- `n` decoder shifts. -/
def shiftInBytes : Nat → State → State
  | 0, s => s
  | n + 1, s => shiftInBytes n (shiftInByte s)

/-! ## The fault and the way out of it -/

/-- FAULT(code, hdr) of 60_exceptions.md R402, the command's words consumed already: ERR_CODE, ERR_CMD and HALT are
written and nothing else changes. -/
def takeFault (code : ErrCode) (hdr : Word) (s : State) : State :=
  { s with errCode := code, errCmd := hdr, halt := true }

/-- Hardware reset (70_reset_and_hazards.md R440). There is no return from a fault but this (60_exceptions.md R408). -/
def hardwareReset (s : State) : State := State.resetWith s.cfg

/-- The construction of a core (00_scope.md R6): an ill-formed configuration builds none. -/
def construct (c : Cfg) : Option State := if c.wf then some (State.resetWith c) else none

/-! ## Session start -/

/-- MODEL_INIT() of 41_coder.md R201. -/
def modelInit (s : State) : State :=
  { s with
    bpos := 0, c0 := 1, c1 := 0, bitCnt := 0, outCnt := 0, inCnt := 0
    coder := freshCoder
    mixer := freshMixer s.cfg s.mixer
    apm := freshApm s.apm
    cm := freshCm s.cfg s.cm
    dmc := freshForest s.cfg s.dmc }

/-! ## Fetching a command -/

/-- What stands at the head of the command port (20_memory.md R102, 30_encoding.md R138). -/
def fetch (s : State) : Verdict := decode s.ports.cmd

/-- The fault of a header that decodes to no command: the words its OP counts are consumed (60_exceptions.md R402). -/
def faultAtHead (code : ErrCode) (hdr : Word) (s : State) : State := takeFault code hdr (consume (wordsOf hdr) s)

/-! ## The host's side of the ports (20_memory.md R102 to R107) -/

/-- The host writes a command word (R102). -/
def hostWriteCommand (w : Word) (s : State) : State := { s with ports := { s.ports with cmd := s.ports.cmd ++ [w] } }

/-- The host pushes an archive byte; "a byte pushed while EOS = 1 is dropped by the port" (R104). -/
def hostPushByte (b : Byte) (s : State) : State :=
  if s.ports.eos then s else { s with ports := { s.ports with archIn := s.ports.archIn ++ [b] } }

/-- The host raises EOS (R104). -/
def hostRaiseEos (s : State) : State := { s with ports := { s.ports with eos := true } }

/-- The host takes the oldest result word (R103), if there is one. -/
def hostTakeResult (s : State) : Option Word × State :=
  match s.ports.result with
  | w :: l => (some w, { s with ports := { s.ports with result := l } })
  | [] => (none, s)

/-- The host takes the oldest archive byte (R105), if there is one. -/
def hostTakeByte (s : State) : Option Byte × State :=
  match s.ports.archOut with
  | b :: l => (some b, { s with ports := { s.ports with archOut := l } })
  | [] => (none, s)

end Sys2Proof.Machine
end

