-- ==== Sys2Proof/Machine/Flags.lean ====
section
/-! DEFINITION. The status word (10_state.md R44) and the checks that decide whether a command runs or faults
(60_exceptions.md R404). The core has no condition codes (10_state.md R56). -/

namespace Sys2Proof.Machine

/-- MODE as STATUS[1:0] (R44). -/
def modeBits : Mode → BitVec 2
  | .idle => 0
  | .enc => 1
  | .dec => 2

/-- ERR_CODE as a number (60_exceptions.md R401). -/
def errNat : ErrCode → Nat
  | .none => 0
  | .illegal => 1
  | .resv => 2
  | .mode => 3
  | .phase => 4
  | .range => 5
  | .ovf => 6
  | .count => 7

/-- STATUS (R44): MODE in [1:0], HALT in [2], EOS in [3], BPOS in [6:4], zero above. -/
def statusWord (s : State) : Word :=
  (0 : BitVec 25) ++ s.bpos ++ BitVec.ofBool s.ports.eos ++ BitVec.ofBool s.halt ++ modeBits s.mode

/-- The side-band status port (20_memory.md R106): STATUS, ERR_CODE, ERR_CMD, readable at any time. -/
def sideBand (s : State) : Word × Word × Word := (statusWord s, BitVec.ofNat 32 (errNat s.errCode), s.errCmd)

/-- One row of the table of 60_exceptions.md R404, evaluated: is the mode allowed, does the phase condition hold, is the
operand in range, how many inputs are pushed, is MX_COUNT = MX_N needed. A check that does not apply keeps its default. -/
structure Checks where
  mode : Bool := true
  phase : Bool := true
  range : Bool := true
  pushed : Option Nat := none
  count : Bool := false

/-- MODE is ENC or DEC. -/
def inSession (s : State) : Bool := s.mode == .enc || s.mode == .dec

/-- E_OVF fails: MX_COUNT + pushed > MX_N. -/
def overflows (s : State) (pushed : Option Nat) : Bool :=
  match pushed with
  | some n => decide (s.mixer.n.toNat < s.mixer.count.toNat + n)
  | none => false

/-- The first check of 60_exceptions.md R404 that fails, in its order from E_MODE on; E_ILLEGAL and E_RESV are the
decoder's (30_encoding.md R138). -/
def firstFailure (c : Checks) (s : State) : Option ErrCode :=
  if !c.mode then some .mode
  else if !c.phase then some .phase
  else if !c.range then some .range
  else if overflows s c.pushed then some .ovf
  else if c.count && s.mixer.count != s.mixer.n then some .count
  else none

/-- A command whose checks are `c` (40_pipeline.md R170): it faults on the first check that fails, else its words are
consumed and its effect is done. -/
def runCommand (i : Instr) (c : Checks) (effect : State → State) (s : State) : Host.Outcome State Fault Refusal :=
  match firstFailure c s with
  | some code => .next (takeFault code i.header (consume i.words s))
  | none => .next (effect (consume i.words s))

/-- A command that calls for `need` archive bytes (40_pipeline.md R170, 20_memory.md R104): once its checks pass it waits,
taken in no part and changing nothing, until they are available. -/
def runWaiting (i : Instr) (c : Checks) (need : Nat) (effect : State → State) (s : State) :
    Host.Outcome State Fault Refusal :=
  match firstFailure c s with
  | some code => .next (takeFault code i.header (consume i.words s))
  | none => if available need s then .next (effect (consume i.words s)) else .next s

end Sys2Proof.Machine
end

