-- ==== Sys2Proof/Machine/Operands.lean ====
section
/-! DEFINITION. Operand values (30_encoding.md R134): "No field is scaled or shifted." BANK, CTX, LANE and STATE are
zero-extended, which is `BitVec.toNat`. -/

namespace Sys2Proof.Machine

/-- imm = zext_32(IMM16), as a number. -/
def immNat (imm : Half) : Nat := imm.toNat

/-- simm = sext_32(IMM16), a value in [-32768, 32767]; the s16 mixer input it is pushed as (44_mixer_apm.md R301). -/
def simmInput (imm : Half) : Half := BitVec.ofInt 16 (imm.signExtend 32).toInt

/-- The bit operand of ENC_BIT and APM_ENABLE: imm in {0, 1}, any greater value having faulted. -/
def immBit (imm : Half) : Bool := imm != 0

end Sys2Proof.Machine
end

