-- ==== Sys2Proof/Machine/ApmCommands.lean ====
section
/-! DEFINITION. The APM commands (44_mixer_apm.md R314 to R316), allowed in every mode. -/

namespace Sys2Proof.Machine

/-- APM_SETCTX (R314). -/
def execApmSetCtx (imm : Half) (s : State) : Host.Outcome State Fault Refusal :=
  runCommand (.apmSetCtx imm) { range := decide (immNat imm < s.cfg.apmNctx) }
    (fun t => { t with apm := { t.apm with ctx := BitVec.ofNat 16 (immNat imm) } }) s

/-- APM_SETRATE (R315). -/
def execApmSetRate (imm : Half) (s : State) : Host.Outcome State Fault Refusal :=
  runCommand (.apmSetRate imm) { range := decide (1 ≤ immNat imm) && decide (immNat imm ≤ 15) }
    (fun t => { t with apm := { t.apm with rate := BitVec.ofNat 4 (immNat imm) } }) s

/-- APM_ENABLE (R316). -/
def execApmEnable (imm : Half) (s : State) : Host.Outcome State Fault Refusal :=
  runCommand (.apmEnable imm) { range := decide (immNat imm ≤ 1) }
    (fun t => { t with apm := { t.apm with enabled := immBit imm } }) s

end Sys2Proof.Machine
end

