-- ==== Sys2Proof/Machine/CoderUnit.lean ====
section
/-! DEFINITION. The arithmetic coder (41_coder.md R203 to R207). -/

namespace Sys2Proof.Machine

/-- xmid of SPLIT(p) (R203). -/
def splitPoint (x1 x2 : Word) (p : Nat) : Word := x1 + ((x2 - x1) >>> 12) * BitVec.ofNat 32 p

/-- NARROW(y, xmid) (R203): the bounds after it. -/
def narrow (y : Bool) (x1 x2 xmid : Word) : Word × Word := if y then (x1, xmid) else (xmid + 1, x2)

/-- Bits [31:24] of a word. -/
def topByte (w : Word) : Byte := w.extractLsb' 24 8

/-- The loop of R204 for at most `n` passes: the bytes that became final, first one first, and the bounds after it. -/
def settle : Nat → Word → Word → List Byte × Word × Word
  | 0, x1, x2 => ([], x1, x2)
  | n + 1, x1, x2 =>
    if topByte x1 = topByte x2 then
      let r := settle n (x1 <<< 8) ((x2 <<< 8) ||| 255)
      (topByte x2 :: r.1, r.2)
    else ([], x1, x2)

/-- The whole loop of R204, which "runs at most 4 times per step" for any bounds. -/
def normalise (x1 x2 : Word) : List Byte × Word × Word := settle 4 x1 x2

/-- The bounds and the settled bytes of a step that codes `y` at probability `p`: SPLIT, NARROW and the loop. -/
def codeInterval (y : Bool) (p : Nat) (k : Coder) : List Byte × Word × Word :=
  let b := narrow y k.x1 k.x2 (splitPoint k.x1 k.x2 p)
  normalise b.1 b.2

/-- The bit R207 reads from the window: 1 when X <= xmid. -/
def decodedBit (p : Nat) (k : Coder) : Bool := decide (k.x.toNat ≤ (splitPoint k.x1 k.x2 p).toNat)

/-- SHIFTS(X1, X2, X, p) of R204: the loop passes DEC_BIT would make. -/
def shifts (p : Nat) (k : Coder) : Nat := (codeInterval (decodedBit p k) p k).1.length

/-- The bounds written to X1 and X2. -/
def setBounds (x1 x2 : Word) (s : State) : State := { s with coder := { s.coder with x1 := x1, x2 := x2 } }

/-- CODE(p, y_in) of R206: the settled bytes are written out. -/
def codeEnc (p : Nat) (y : Bool) (s : State) : State :=
  let r := codeInterval y p s.coder
  setBounds r.2.1 r.2.2 (outBytes r.1 s)

/-- CODE(p, none) of R207 for the bit `y` it decides: an archive byte is shifted into X for each settled byte. -/
def codeDec (p : Nat) (y : Bool) (s : State) : State :=
  let r := codeInterval y p s.coder
  setBounds r.2.1 r.2.2 (shiftInBytes r.1.length s)

end Sys2Proof.Machine
end

