-- ==== Sys2Proof/Machine/ContextUnit.lean ====
section
/-! DEFINITION. The context map (43_contextmap.md): indices, hashing, FIND, lane inputs and updates. `bpos` and `c0` are
the registers BPOS and C0 at the moment the rule reads them. -/

namespace Sys2Proof.Machine

/-! ## The state index (R253) -/

/-- GSTART of R253. -/
def groupStart (bpos : Nat) : Nat := if bpos < 2 then 0 else if bpos < 5 then 2 else 5

/-- BIDX of R253. -/
def stateIndex (bpos : BitVec 3) (c0 : BitVec 9) : Nat :=
  let k := bpos.toNat - groupStart bpos.toNat
  let v := c0.toNat % 2 ^ k
  if k = 0 then 0 else if k = 1 then 1 + v else 3 + v

/-! ## Hashing and finding a slot (R254 to R256) -/

/-- key of HASH (R254). -/
def hashKey (fp : Long) (l : Nat) (c0 : BitVec 9) : Long :=
  fp ^^^ (BitVec.ofNat 64 (l + 1) * 0x9E3779B97F4A7C15#64) ^^^ (c0.setWidth 64 * 0xC2B2AE3D27D4EB4F#64)

/-- h1 of HASH (R254). -/
def hashOne (key : Long) : Long :=
  let h := key * 0xD6E8FEB86659FD93#64
  h ^^^ (h >>> 32)

/-- HASH of R254: the bucket and the checksum. -/
def hash (log2b : Nat) (fp : Long) (l : Nat) (c0 : BitVec 9) : BitVec 28 × Half :=
  let h1 := hashOne (hashKey fp l c0)
  let h2 := (h1 ^^^ (h1 >>> 29)) * 0xBF58476D1CE4E5B9#64
  ((h1 >>> (64 - log2b)).setWidth 28, (h2 >>> 48).setWidth 16)

/-- TOUCH(b, s) of R256. -/
def touch (b s : Nat) (m : ContextMap) : ContextMap :=
  let u := mruAt m b
  if u.mru0.toNat = s then m else setMru m b { mru0 := BitVec.ofNat 4 s, mru1 := u.mru0 }

/-- CLAIM(b, s, chk) of R255. -/
def claim (b s : Nat) (chk : Half) (m : ContextMap) : ContextMap := setSlot m b s { slotInit 0 with chk := chk }

/-- The priority BYTES[b][s][0] (R252). -/
def priority (m : ContextMap) (b s : Nat) : Nat := (slotAt m b s).b0.toNat

/-- A slot that VICTIM may choose: neither MRU0[b] nor MRU1[b] (R256). -/
def evictable (m : ContextMap) (b s : Nat) : Bool :=
  (mruAt m b).mru0.toNat != s && (mruAt m b).mru1.toNat != s

/-- Of an earlier choice and a later slot, the one of less priority; among equals the earlier (R256). -/
def lesser (m : ContextMap) (b : Nat) (best : Option Nat) (s : Nat) : Option Nat :=
  match best with
  | some v => if priority m b s < priority m b v then some s else some v
  | none => some s

/-- VICTIM(b) of R256. A victim exists because S >= 3. -/
def victim (slots b : Nat) (m : ContextMap) : Nat :=
  (((List.range slots).filter (evictable m b)).foldl (lesser m b) none).getD 0

/-- FIND(b, chk) of R255: the slot and the context map after it. -/
def find (slots b : Nat) (chk : Half) (m : ContextMap) : Nat × ContextMap :=
  match (List.range slots).find? fun s => (slotAt m b s).chk == chk with
  | some s => (s, touch b s m)
  | none =>
    match (List.range slots).find? fun s => (slotAt m b s).b0 == 0 with
    | some s => (s, touch b s (claim b s chk m))
    | none =>
      let s := victim slots b m
      (s, touch b s (claim b s chk m))

/-- LOOKUP(L) of R254: the handle and the context map after FIND. -/
def lookup (c : Cfg) (c0 : BitVec 9) (l : Nat) (m : ContextMap) : Handle × ContextMap :=
  let h := hash c.cmLog2b (laneAt m l).fp l c0
  let r := find c.cmSlots h.1.toNat h.2 m
  ({ bucket := h.1, slot := BitVec.ofNat 4 r.1 }, r.2)

/-! ## Commands (R258) -/

/-- The effect of CM_SET (R258) on the context map. -/
def cmSetLane (c : Cfg) (c0 : BitVec 9) (l : Nat) (fp : Long) (m : ContextMap) : ContextMap :=
  let m := setLane m l { laneAt m l with fp := fp, valid := true }
  let r := lookup c c0 l m
  setLane r.2 l { laneAt r.2 l with h0 := r.1, cur := r.1 }

/-! ## Lane inputs (R260, R261) -/

/-- B agrees with the bits coded so far (R261). -/
def agrees (bpos : BitVec 3) (c0 : BitVec 9) (b : Byte) : Bool := (b.toNat ||| 256) / 2 ^ (8 - bpos.toNat) == c0.toNat

/-- B's next bit (R261). -/
def nextBitOf (bpos : BitVec 3) (b : Byte) : Nat := b.toNat / 2 ^ (7 - bpos.toNat) % 2

/-- RUN_INFO of R261 over the lane's group-0 slot: (ri, mag). -/
def runInfo (bpos : BitVec 3) (c0 : BitVec 9) (t : Slot) : Nat × Nat :=
  if t.b3 = 0 then (0, 0)
  else if agrees bpos c0 t.b4 then (1 + nextBitOf bpos t.b4, min t.b3.toNat 8 * 128)
  else if agrees bpos c0 t.b5 then (1 + nextBitOf bpos t.b5, 128)
  else if agrees bpos c0 t.b6 then (1 + nextBitOf bpos t.b6, 128)
  else (0, 0)

/-- in2 of R260. -/
def runInput (ri mag : Nat) : Int := if ri = 0 then 0 else if ri = 1 then -(mag : Int) else (mag : Int)

/-- The raw inputs of a valid lane (R260), before the scale. -/
def rawInputs (c : Cfg) (bpos : BitVec 3) (c0 : BitVec 9) (m : ContextMap) (l : Nat) : List Int :=
  let st := (slotByte (handleSlot m (laneAt m l).cur) (stateIndex bpos c0)).toNat
  let in1 : Int := if st = 0 then 0 else stretch (smP (sm1At m l st))
  if c.cmByteHist then
    let r := runInfo bpos c0 (handleSlot m (laneAt m l).h0)
    let in3 : Int := if st = 0 ∧ r.1 = 0 then 0 else stretch (smP (sm2At m l (st * 3 + r.1)))
    [in1, runInput r.1 r.2, in3]
  else [in1]

/-- LANE_INPUTS(L) of R260: K values. -/
def laneInputs (c : Cfg) (bpos : BitVec 3) (c0 : BitVec 9) (m : ContextMap) (l : Nat) : List Half :=
  if (laneAt m l).valid then (rawInputs c bpos c0 m l).map fun v => sat16 (scaleQ8 v m.scale)
  else List.replicate c.laneK 0

/-- All the inputs CM_MIX pushes, in order (R259). -/
def cmInputs (c : Cfg) (bpos : BitVec 3) (c0 : BitVec 9) (m : ContextMap) : List Half :=
  (List.range c.cmLanes).flatMap (laneInputs c bpos c0 m)

/-! ## Updates inside the step (R262 to R264) -/

/-- CM_UPDATE(L, y) of R262, at BPOS and C0 before the advance. -/
def cmUpdate (c : Cfg) (bpos : BitVec 3) (c0 : BitVec 9) (y : Bool) (l : Nat) (m : ContextMap) : ContextMap :=
  let h := (laneAt m l).cur
  let i := stateIndex bpos c0
  let st := slotByte (handleSlot m h) i
  let ri := if c.cmByteHist then (runInfo bpos c0 (handleSlot m (laneAt m l).h0)).1 else 0
  let m1 := if st != 0 then setSm1 m l st.toNat (adapt16 (sm1At m l st.toNat) y c.smRate) else m
  let j := st.toNat * 3 + ri
  let m2 := if c.cmByteHist && (st != 0 || ri != 0) then setSm2 m1 l j (adapt16 (sm2At m1 l j) y c.smRate) else m1
  setHandleSlot m2 h (setSlotByte (handleSlot m2 h) i (bhNext c.bhTable st y))

/-- CM_RUN_UPDATE(L, c) of R264 on the lane's group-0 slot. -/
def runUpdate (byte : Byte) (t : Slot) : Slot :=
  if t.b3 = 0 then { t with b4 := byte, b3 := 1 }
  else if byte = t.b4 then { t with b3 := BitVec.ofNat 8 (min (t.b3.toNat + 1) 255) }
  else { t with b6 := t.b5, b5 := t.b4, b4 := byte, b3 := 1 }

/-- CM_RUN_UPDATE(L, c) of R264. -/
def cmRunUpdate (byte : Byte) (l : Nat) (m : ContextMap) : ContextMap :=
  let h := (laneAt m l).h0
  setHandleSlot m h (runUpdate byte (handleSlot m h))

/-- `f` for L = 0 .. CM_LANES-1 in that order, where LANE_VALID[L] = 1 (40_pipeline.md R174, R176, R177). -/
def forValidLanes (c : Cfg) (f : Nat → ContextMap → ContextMap) (m : ContextMap) : ContextMap :=
  (List.range c.cmLanes).foldl (fun m l => if (laneAt m l).valid then f l m else m) m

/-- Part 3 of UPDATE (40_pipeline.md R174). -/
def cmUpdateAll (c : Cfg) (bpos : BitVec 3) (c0 : BitVec 9) (y : Bool) (m : ContextMap) : ContextMap :=
  forValidLanes c (cmUpdate c bpos c0 y) m

/-- LANE_CUR[L] <- LOOKUP(L) (R263). -/
def resolveLane (c : Cfg) (c0 : BitVec 9) (l : Nat) (m : ContextMap) : ContextMap :=
  let r := lookup c c0 l m
  setLane r.2 l { laneAt r.2 l with cur := r.1 }

/-- CM_RESOLVE() of 40_pipeline.md R177. -/
def cmResolve (c : Cfg) (c0 : BitVec 9) (m : ContextMap) : ContextMap := forValidLanes c (resolveLane c c0) m

/-- What the byte boundary does to the context map (40_pipeline.md R176): the run updates, then no lane is valid. -/
def cmBoundary (c : Cfg) (byte : Byte) (m : ContextMap) : ContextMap :=
  let m := forValidLanes c (cmRunUpdate byte) m
  { m with lanes := m.lanes.map fun t => { t with valid := false } }

end Sys2Proof.Machine
end

