-- ==== Sys2Proof/Machine/DmcUnit.lean ====
section
/-! DEFINITION. The DMC predictor forest (45_dmc.md R353 to R362). -/

namespace Sys2Proof.Machine

/-! ## Prediction (R354) -/

/-- p1 of R354: from the raw counts. -/
def countEstimate (nd : Node) : Nat :=
  let total := nd.c0.toNat + nd.c1.toNat
  if total = 0 then 2048 else clampP (nd.c1.toNat * 4096 / total)

/-- DMC_INPUT(i) of R354. -/
def dmcInput (scale : Half) (d : DmcInst) : Half :=
  let nd := nodeAt d d.curr.toNat
  sat16 (scaleQ8 (stretch (countEstimate nd) + stretch (smP (smdAt d nd.st))) scale)

/-- The ten inputs DMC_MIX pushes, instance 0 first (R353). -/
def dmcInputs (f : Forest) : List Half := f.insts.map (dmcInput f.scale)

/-! ## Update (R356 to R360) -/

/-- The decayed count of R356, step 2: c - (c >> 6), plus one observation when the bit is seen, saturated in u16. -/
def decay (c : Half) (seen : Bool) : Half :=
  BitVec.ofNat 16 (min 65535 (c.toNat - c.toNat / 2 ^ 6 + (if seen then 1024 else 0)))

/-- nx_y of a node. -/
def nodeNext (nd : Node) (y : Bool) : BitVec 28 := if y then nd.nx1 else nd.nx0

/-- c0 + c1 of a node. -/
def nodeTotal (nd : Node) : Nat := nd.c0.toNat + nd.c1.toNat

/-- Step 2 of R356: both counts of node k. -/
def dmcDecay (k : Nat) (y : Bool) (d : DmcInst) : DmcInst :=
  let nd := nodeAt d k
  setNode d k { nd with c0 := decay nd.c0 (!y), c1 := decay nd.c1 y }

/-- DMC_STATE_UPDATE(i, k, y) of R357. -/
def dmcStateUpdate (c : Cfg) (k : Nat) (y : Bool) (d : DmcInst) : DmcInst :=
  let st := (nodeAt d k).st
  let d := setSmd d st (adapt16 (smdAt d st) y c.smRate)
  setNode d k { nodeAt d k with st := bhNext c.bhTable st y }

/-- CLONE(i, k, t, y, n, total) of R358, write by write. -/
def dmcClone (thrCap k t : Nat) (y : Bool) (n total : Nat) (d : DmcInst) : DmcInst :=
  let m := d.top.toNat
  let d := { d with top := d.top + 1 }
  let a0 := BitVec.ofNat 16 ((nodeAt d t).c0.toNat * n / total)
  let a1 := BitVec.ofNat 16 ((nodeAt d t).c1.toNat * n / total)
  let d := setNode d m { nodeAt d m with c0 := a0, c1 := a1 }
  let d := setNode d t { nodeAt d t with c0 := (nodeAt d t).c0 - a0, c1 := (nodeAt d t).c1 - a1 }
  let d := setNode d m { nodeAt d m with nx0 := (nodeAt d t).nx0, nx1 := (nodeAt d t).nx1, st := (nodeAt d t).st }
  let d := setNode d k (if y then { nodeAt d k with nx1 := BitVec.ofNat 28 m } else { nodeAt d k with nx0 := BitVec.ofNat 28 m })
  { d with thr := BitVec.ofNat 32 (min (d.thr.toNat + 1) thrCap) }

/-- Step 4 of R356 (R359): the skipped clone volume, saturating. -/
def dmcSkip (n : Nat) (d : DmcInst) : DmcInst :=
  { d with extra := BitVec.ofNat 64 (min (d.extra.toNat + n) (2 ^ 64 - 1)) }

/-- Steps 3 and 4 of R356, with n the count of the bit before the decay. -/
def dmcGrow (c : Cfg) (i k : Nat) (y : Bool) (n : Nat) (d : DmcInst) : DmcInst :=
  let t := (nodeNext (nodeAt d k) y).toNat
  let total := nodeTotal (nodeAt d t)
  if d.thr.toNat < n ∧ n + d.thr.toNat < total then
    if d.top.toNat < c.cap i then dmcClone (c.thrCap i) k t y n total d else dmcSkip n d
  else d

/-- DMC_UPDATE(i, y) of R356. -/
def dmcUpdate (c : Cfg) (y : Bool) (i : Nat) (d : DmcInst) : DmcInst :=
  let k := d.curr.toNat
  let n := (if y then (nodeAt d k).c1 else (nodeAt d k).c0).toNat
  let d := dmcGrow c i k y n (dmcStateUpdate c k y (dmcDecay k y d))
  { d with curr := nodeNext (nodeAt d k) y }

/-- Part 4 of UPDATE (40_pipeline.md R174): instance 0 to 9. -/
def dmcUpdateAll (c : Cfg) (y : Bool) (f : Forest) : Forest := { f with insts := mapFrom (dmcUpdate c y) 0 f.insts }

/-! ## Full and reset (R361, R362) -/

/-- isFull(i) of R361. -/
def isFull (c : Cfg) (i : Nat) (d : DmcInst) : Bool := decide (c.cap i * 1024 < d.extra.toNat)

/-- DMC_BYTE_RESET(i, c) of R362. -/
def dmcByteReset (c : Cfg) (byte : Byte) (i : Nat) (d : DmcInst) : DmcInst :=
  if c.resettable i && isFull c i d then { dmcInit c i d with curr := BitVec.ofNat 28 (byte.toNat * 255) } else d

/-- The byte reset of every instance (40_pipeline.md R176). -/
def dmcBoundary (c : Cfg) (byte : Byte) (f : Forest) : Forest := { f with insts := mapFrom (dmcByteReset c byte) 0 f.insts }

end Sys2Proof.Machine
end

