-- ==== Sys2Proof/Machine/MixerUnit.lean ====
section
/-! DEFINITION. The mixer and the APM (44_mixer_apm.md R303 to R309). -/

namespace Sys2Proof.Machine

/-- dot_j of R303: the exact sum over k < MX_N of MXIN[k] × W[j][c_j][k]. -/
def dot (m : Mixer) (j : Nat) : Int :=
  sumTo (fun k => (inputAt m k).toInt * (weightAt m j (selAt m j) k).toInt) m.n.toNat

/-- s_j of R303. -/
def layerOne (m : Mixer) (j : Nat) : Int := clamp (scaleQ8 (asr (dot m j) 16) m.scale) (-2047) 2047

/-- s_mix of R304. -/
def mixOf (m : Mixer) : Int :=
  if m.active = 1 then layerOne m 0
  else clamp (asr (sumTo (fun j => layerOne m j * (blendAt m j).toInt) m.active.toNat) 16) (-2047) 2047

/-- u of R308, for s in [-2047, 2047]: in 1..4095. -/
def apmPoint (s : Int) : Nat := (s + 2048).toNat

/-- pa of R308 before the clamp: the interpolation of two neighbouring entries. -/
def apmInterpolate (a : Apm) (s : Int) : Nat :=
  let u := apmPoint s
  let lo := u / 2 ^ 7
  let w := u % 128
  ((apmAt a a.ctx.toNat lo).toNat * (128 - w) + (apmAt a a.ctx.toNat (lo + 1)).toNat * w) / 2 ^ 11

/-- APM_PREDICT of R308. -/
def apmPredict (a : Apm) (s : Int) : Nat := clampP (apmInterpolate a s)

/-- k of R308: the nearer of the two buckets. -/
def apmBucket (s : Int) : Nat :=
  let u := apmPoint s
  u / 2 ^ 7 + u % 128 / 2 ^ 6

/-- PREDICT() of R305. It writes nothing. -/
def predict (m : Mixer) (a : Apm) : Prediction :=
  let s := (List.range m.active.toNat).map (layerOne m)
  let sMix := mixOf m
  let pMix := squash sMix
  { s := s, p := s.map squash, sMix := sMix, pMix := pMix, bucket := apmBucket sMix
    pFinal := if a.enabled then apmPredict a sMix else pMix }

/-- err_j of R306 and errF of R307: clamp(((y << 12) - p) × MX_LR, -32767, 32767). -/
def trainError (m : Mixer) (y : Bool) (p : Nat) : Int :=
  clamp (((bitNat y * 2 ^ 12 : Nat) - (p : Int)) * (m.lr.toNat : Int)) (-32767) 32767

/-- A weight trained by an input x and an error: sat32(w + asr(x × err + 32768, 16)) (R306, R307). -/
def trained (w : Word) (x err : Int) : Word := sat32 (w.toInt + asr (x * err + 32768) 16)

/-- The update of one weight of bank j (R306). -/
def trainWeight (j : Nat) (err : Int) (m : Mixer) (k : Nat) : Mixer :=
  setWeight m j (selAt m j) k (trained (weightAt m j (selAt m j) k) (inputAt m k).toInt err)

/-- The update of the selected vector of bank j (R306): for k < MX_N. -/
def trainBank (pr : Prediction) (y : Bool) (m : Mixer) (j : Nat) : Mixer :=
  (List.range m.n.toNat).foldl (trainWeight j (trainError m y (pr.p.getD j 0))) m

/-- The first-layer update (R306): each active bank. -/
def trainFirst (pr : Prediction) (y : Bool) (m : Mixer) : Mixer := (List.range m.active.toNat).foldl (trainBank pr y) m

/-- The second-layer update (R307), only when MX_ACTIVE > 1. -/
def trainSecond (pr : Prediction) (y : Bool) (m : Mixer) : Mixer :=
  if 1 < m.active.toNat then
    { m with blend := mapFrom (fun j f => if j < m.active.toNat then trained f (pr.s.getD j 0) (trainError m y pr.pMix) else f)
                        0 m.blend }
  else m

/-- Part 1 of UPDATE (40_pipeline.md R174): the mixer, then MX_COUNT <- 0. -/
def trainMixer (pr : Prediction) (y : Bool) (m : Mixer) : Mixer :=
  { trainSecond pr y (trainFirst pr y m) with count := 0 }

/-- Part 2 of UPDATE (R309): the nearer bucket of the row APM_CTX, when APM_EN = 1. -/
def trainApm (pr : Prediction) (y : Bool) (a : Apm) : Apm :=
  if a.enabled then
    setApm a a.ctx.toNat pr.bucket (adapt16 (apmAt a a.ctx.toNat pr.bucket) y a.rate.toNat)
  else a

end Sys2Proof.Machine
end

