-- ==== Sys2Proof/Machine/Pipeline.lean ====
section
/-! DEFINITION. The step of one coded bit (40_pipeline.md R173 to R177). -/

namespace Sys2Proof.Machine

/-- PREDICT() in a state. -/
def predictOf (s : State) : Prediction := predict s.mixer s.apm

/-- LAST_P <- pr.p_final (R173). -/
def setLastP (pr : Prediction) (s : State) : State := { s with coder := { s.coder with lastP := BitVec.ofNat 12 pr.pFinal } }

/-- UPDATE(pr, y) of R174: mixer, APM, context map, DMC forest, each seeing the parts before it. -/
def update (pr : Prediction) (y : Bool) (s : State) : State :=
  let s := { s with mixer := trainMixer pr y s.mixer }
  let s := { s with apm := trainApm pr y s.apm }
  let s := { s with cm := cmUpdateAll s.cfg s.bpos s.c0 y s.cm }
  { s with dmc := dmcUpdateAll s.cfg y s.dmc }

/-- BYTE_BOUNDARY(c) of R176. -/
def byteBoundary (byte : Byte) (s : State) : State :=
  { s with c1 := byte, bpos := 0, c0 := 1, cm := cmBoundary s.cfg byte s.cm, dmc := dmcBoundary s.cfg byte s.dmc }

/-- ADVANCE(y) of R175. -/
def advance (y : Bool) (s : State) : State :=
  let c0 : BitVec 9 := (s.c0 <<< 1) ||| BitVec.ofNat 9 (bitNat y)
  let n := s.bpos.toNat + 1
  if n = 8 then byteBoundary ((c0 - 256).setWidth 8) s
  else
    let s := { s with c0 := c0, bpos := BitVec.ofNat 3 n }
    if n = 2 ∨ n = 5 then { s with cm := cmResolve s.cfg c0 s.cm } else s

/-- What STEP does once CODE is done (R173): LAST_P, UPDATE, ADVANCE, BITCNT. -/
def afterCode (pr : Prediction) (y : Bool) (s : State) : State :=
  let s := advance y (update pr y (setLastP pr s))
  { s with bitCnt := s.bitCnt + 1 }

/-- STEP(y) of R173 with the CODE of R206. -/
def stepEnc (y : Bool) (s : State) : State :=
  let pr := predictOf s
  afterCode pr y (codeEnc pr.pFinal y s)

/-- The bit STEP(none) returns (R173, R207). -/
def decBitOf (s : State) : Bool := decodedBit (predictOf s).pFinal s.coder

/-- STEP(none) of R173 with the CODE of R207. -/
def stepDec (s : State) : State :=
  let pr := predictOf s
  let y := decBitOf s
  afterCode pr y (codeDec pr.pFinal y s)

end Sys2Proof.Machine
end

