-- ==== Sys2Proof/Machine/Coding.lean ====
section
/-! DEFINITION. The coding commands ENC_BIT and DEC_BIT (41_coder.md R206, R207). -/

namespace Sys2Proof.Machine

/-- The effect of DEC_BIT (R207): the step, then the decoded bit as a result word. -/
def decBitEffect (s : State) : State := result (BitVec.ofNat 32 (bitNat (decBitOf s))) (stepDec s)

/-- The archive bytes DEC_BIT calls for: SHIFTS(X1, X2, X, p) of R204, a function of the state before the step. -/
def decBitNeed (s : State) : Nat := shifts (predictOf s).pFinal s.coder

/-- ENC_BIT (R206). -/
def execEncBit (imm : Half) (s : State) : Host.Outcome State Fault Refusal :=
  runCommand (.encBit imm) { mode := s.mode == .enc, range := decide (immNat imm ≤ 1), count := true } (stepEnc (immBit imm)) s

/-- DEC_BIT (R207): it waits for the bytes its normalisation reads. -/
def execDecBit (s : State) : Host.Outcome State Fault Refusal :=
  runWaiting .decBit { mode := s.mode == .dec, count := true } (decBitNeed s) decBitEffect s

end Sys2Proof.Machine
end

