-- ==== Sys2Proof/Machine/ContextCommands.lean ====
section
/-! DEFINITION. The context-map commands CM_SET, CM_MIX and CM_SETSCALE (43_contextmap.md R258, R259, R265). -/

namespace Sys2Proof.Machine

/-- CM_SET (R258). -/
def execCmSet (lane : Byte) (fp : Long) (s : State) : Host.Outcome State Fault Refusal :=
  runCommand (.cmSet lane fp)
    { mode := inSession s, phase := s.bpos == 0, range := decide (lane.toNat < s.cfg.cmLanes) }
    (fun t => { t with cm := cmSetLane t.cfg t.c0 lane.toNat fp t.cm }) s

/-- CM_MIX (R259). -/
def execCmMix (s : State) : Host.Outcome State Fault Refusal :=
  runCommand .cmMix { mode := inSession s, pushed := some (s.cfg.cmLanes * s.cfg.laneK) }
    (fun t => { t with mixer := pushInputs t.mixer (cmInputs t.cfg t.bpos t.c0 t.cm) }) s

/-- CM_SETSCALE (R265). -/
def execCmSetScale (imm : Half) (s : State) : Host.Outcome State Fault Refusal :=
  runCommand (.cmSetScale imm) {} (fun t => { t with cm := { t.cm with scale := BitVec.ofNat 16 (immNat imm) } }) s

end Sys2Proof.Machine
end

