-- ==== Sys2Proof/Machine/DmcCommands.lean ====
section
/-! DEFINITION. The DMC commands DMC_MIX and DMC_SETSCALE (45_dmc.md R353, R363). -/

namespace Sys2Proof.Machine

/-- DMC_MIX (R353): ten inputs. -/
def execDmcMix (s : State) : Host.Outcome State Fault Refusal :=
  runCommand .dmcMix { mode := inSession s, pushed := some dmcN }
    (fun t => { t with mixer := pushInputs t.mixer (dmcInputs t.dmc) }) s

/-- DMC_SETSCALE (R363). -/
def execDmcSetScale (imm : Half) (s : State) : Host.Outcome State Fault Refusal :=
  runCommand (.dmcSetScale imm) {} (fun t => { t with dmc := { t.dmc with scale := BitVec.ofNat 16 (immNat imm) } }) s

end Sys2Proof.Machine
end

