-- ==== Sys2Proof/Machine/MixerCommands.lean ====
section
/-! DEFINITION. The mixer commands (44_mixer_apm.md R301, R302, R310 to R313). -/

namespace Sys2Proof.Machine

/-- MX_ADD (R301): the operand is sign-extended. -/
def execMxAdd (imm : Half) (s : State) : Host.Outcome State Fault Refusal :=
  runCommand (.mxAdd imm) { mode := inSession s, pushed := some 1 }
    (fun t => { t with mixer := pushInput t.mixer (simmInput imm) }) s

/-- MX_SELECT (R302). -/
def execMxSelect (bank : Byte) (ctx : Half) (s : State) : Host.Outcome State Fault Refusal :=
  runCommand (.mxSelect bank ctx) { range := decide (bank.toNat < s.cfg.mxNsel) && decide (ctx.toNat < s.cfg.mxKsel) }
    (fun t => { t with mixer := { t.mixer with sel := t.mixer.sel.set bank.toNat ctx } }) s

/-- MX_SETN (R310): only between steps. -/
def execMxSetN (imm : Half) (s : State) : Host.Outcome State Fault Refusal :=
  runCommand (.mxSetN imm) { phase := s.mixer.count == 0, range := decide (immNat imm ≤ s.cfg.mxMaxN) }
    (fun t => { t with mixer := { t.mixer with n := BitVec.ofNat 16 (immNat imm) } }) s

/-- MX_SETACTIVE (R311): only between steps; F is not changed. -/
def execMxSetActive (imm : Half) (s : State) : Host.Outcome State Fault Refusal :=
  runCommand (.mxSetActive imm)
    { phase := s.mixer.count == 0, range := decide (1 ≤ immNat imm) && decide (immNat imm ≤ s.cfg.mxNsel) }
    (fun t => { t with mixer := { t.mixer with active := BitVec.ofNat 4 (immNat imm) } }) s

/-- MX_SETLR (R312). -/
def execMxSetLr (imm : Half) (s : State) : Host.Outcome State Fault Refusal :=
  runCommand (.mxSetLr imm) { range := decide (immNat imm ≤ 255) }
    (fun t => { t with mixer := { t.mixer with lr := BitVec.ofNat 8 (immNat imm) } }) s

/-- MX_SETSCALE (R313). -/
def execMxSetScale (imm : Half) (s : State) : Host.Outcome State Fault Refusal :=
  runCommand (.mxSetScale imm) {} (fun t => { t with mixer := { t.mixer with scale := BitVec.ofNat 16 (immNat imm) } }) s

end Sys2Proof.Machine
end

