-- ==== Sys2Proof/Machine/Registers.lean ====
section
/-! DEFINITION. The register map of READ_REG (10_state.md R42 to R53). -/

namespace Sys2Proof.Machine

/-- A number as a 32-bit word. -/
def wordOf (n : Nat) : Word := BitVec.ofNat 32 n

/-- A one-bit field as a 32-bit word. -/
def wordOfBool (b : Bool) : Word := wordOf (bitNat b)

/-- The word whose bit i is f(i), for i < n. -/
def bitsWord (f : Nat → Bool) (n : Nat) : Nat :=
  match n with
  | 0 => 0
  | k + 1 => bitsWord f k + (if f k then 2 ^ k else 0)

/-- CM_VALID (R51): bit L is LANE_VALID[L]; bits from CM_LANES on read 0. -/
def cmValidWord (s : State) : Word := wordOf (bitsWord (fun l => (laneAt s.cm l).valid) s.cfg.cmLanes)

/-- Instance i. -/
def instAt (f : Forest) (i : Nat) : DmcInst :=
  f.insts.getD i { top := 0, curr := 0, thr := 0, extra := 0, nodes := [], smd := [] }

/-- DMC_FULL (R52): bit i is isFull(i), computed at the read. -/
def dmcFullWord (s : State) : Word := wordOf (bitsWord (fun i => isFull s.cfg i (instAt s.dmc i)) dmcN)

/-- One index per instance: base + i for i in 0..9. -/
def perInstance (base : Nat) (f : Nat → Word) : List (Nat × Word) := (List.range dmcN).map fun i => (base + i, f i)

/-- The identification and configuration read-back registers (R42, R43). -/
def configRegs (c : Cfg) : List (Nat × Word) :=
  [(0x000, 0x50415138), (0x001, 0x00070000), (0x002, wordOf c.level), (0x003, wordOf c.cmLog2b), (0x004, wordOf c.cmSlots),
   (0x005, wordOf c.cmLanes), (0x006, wordOfBool c.cmByteHist), (0x007, wordOf c.mxMaxN), (0x008, wordOf c.mxNsel),
   (0x009, wordOf c.mxKsel), (0x00A, wordOf c.apmNctx), (0x00B, wordOf c.smRate), (0x00C, wordOf dmcN),
   (0x00D, wordOf c.bhTable.length)]
  ++ perInstance 0x0B0 (fun i => wordOf (c.cap i))
  ++ perInstance 0x0C0 (fun i => wordOf (c.thrInit i))
  ++ perInstance 0x0D0 (fun i => wordOf (c.thrCap i))
  ++ perInstance 0x0E0 (fun i => wordOfBool (c.resettable i))

/-- Status, error, position, counter and coder registers (R44 to R48). -/
def coreRegs (s : State) : List (Nat × Word) :=
  [(0x010, statusWord s), (0x011, wordOf (errNat s.errCode)), (0x012, s.errCmd), (0x013, s.c0.setWidth 32),
   (0x014, s.c1.setWidth 32), (0x015, s.bitCnt.extractLsb' 0 32), (0x016, s.bitCnt.extractLsb' 32 32), (0x017, s.outCnt),
   (0x018, s.inCnt), (0x020, s.coder.x1), (0x021, s.coder.x2), (0x022, s.coder.x), (0x023, s.coder.lastP.setWidth 32)]

/-- Mixer, APM, scale and lane registers (R49 to R51). -/
def unitRegs (s : State) : List (Nat × Word) :=
  [(0x030, s.mixer.n.setWidth 32), (0x031, s.mixer.count.setWidth 32), (0x032, s.mixer.active.setWidth 32),
   (0x033, s.mixer.lr.setWidth 32), (0x034, s.mixer.scale.setWidth 32), (0x040, s.apm.ctx.setWidth 32),
   (0x041, s.apm.rate.setWidth 32), (0x042, wordOfBool s.apm.enabled), (0x048, s.cm.scale.setWidth 32),
   (0x049, s.dmc.scale.setWidth 32), (0x04A, cmValidWord s)]
  ++ (List.range s.cfg.mxNsel).map (fun j => (0x038 + j, wordOf (selAt s.mixer j)))

/-- DMC registers (R52). -/
def dmcRegs (s : State) : List (Nat × Word) :=
  (0x050, dmcFullWord s)
  :: (perInstance 0x060 (fun i => (instAt s.dmc i).top)
  ++ perInstance 0x070 (fun i => (instAt s.dmc i).curr.setWidth 32)
  ++ perInstance 0x080 (fun i => (instAt s.dmc i).thr)
  ++ perInstance 0x090 (fun i => (instAt s.dmc i).extra.extractLsb' 0 32)
  ++ perInstance 0x0A0 (fun i => (instAt s.dmc i).extra.extractLsb' 32 32))

/-- The whole register map (R53). -/
def regMap (s : State) : List (Nat × Word) := configRegs s.cfg ++ coreRegs s ++ unitRegs s ++ dmcRegs s

/-- REG(index), none where R53 defines no register. -/
def readRegister (s : State) (index : Nat) : Option Word := (regMap s).lookup index

end Sys2Proof.Machine
end

