-- ==== Sys2Proof/Machine/Query.lean ====
section
/-! DEFINITION. The commands that only read: NOP, PEEK_P, READ_REG (40_pipeline.md R178 to R180) and BH_QUERY
(42_bithistory.md R236). -/

namespace Sys2Proof.Machine

/-- NOP (R178): allowed in every mode, no effect. -/
def execNop (s : State) : Host.Outcome State Fault Refusal := runCommand .nop {} (fun t => t) s

/-- The result word of PEEK_P (R179): p_final | (p_mix << 16). -/
def peekWord (pr : Prediction) : Word := BitVec.ofNat 32 pr.pFinal ||| (BitVec.ofNat 32 pr.pMix <<< 16)

/-- PEEK_P (R179). -/
def execPeekP (s : State) : Host.Outcome State Fault Refusal :=
  runCommand .peekP { mode := inSession s, count := true } (fun t => result (peekWord (predictOf t)) t) s

/-- READ_REG (R180): an index that 10_state.md R53 does not define is out of range. -/
def execReadReg (imm : Half) (s : State) : Host.Outcome State Fault Refusal :=
  runCommand (.readReg imm) { range := (readRegister s (immNat imm)).isSome }
    (fun t => result ((readRegister t (immNat imm)).getD 0) t) s

/-- The result word of BH_QUERY (R236). -/
def bhQueryWord (t : List BhRow) (code : Byte) : Word := bhCount t code true ++ bhCount t code false ++ bhNext t code true ++ bhNext t code false

/-- BH_QUERY (R236): any STATE, every mode. -/
def execBhQuery (code : Byte) (s : State) : Host.Outcome State Fault Refusal :=
  runCommand (.bhQuery code) {} (fun t => result (bhQueryWord t.cfg.bhTable code) t) s

end Sys2Proof.Machine
end

