-- ==== Sys2Proof/Machine/Session.lean ====
section
/-! DEFINITION. The session commands START_ENC, START_DEC, FLUSH and STOP (41_coder.md R201, R202, R208, R209). -/

namespace Sys2Proof.Machine

/-- The effect of START_ENC (R201). -/
def startEncEffect (s : State) : State := { modelInit s with mode := .enc }

/-- The effect of START_DEC (R202): the first byte read is X[31:24]. -/
def startDecEffect (s : State) : State := { shiftInBytes 4 (modelInit s) with mode := .dec }

/-- The bytes FLUSH writes (R208): X1 from bits [31:24] down to bits [7:0]. -/
def flushBytes (x1 : Word) : List Byte :=
  [x1.extractLsb' 24 8, x1.extractLsb' 16 8, x1.extractLsb' 8 8, x1.extractLsb' 0 8]

/-- The effect of FLUSH (R208). -/
def flushEffect (s : State) : State := { outBytes (flushBytes s.coder.x1) s with mode := .idle }

/-- The effect of STOP (R209). -/
def stopEffect (s : State) : State :=
  { s with ports := { s.ports with archIn := [], eos := false }, mode := .idle }

/-- START_ENC (R201): allowed only in IDLE. -/
def execStartEnc (s : State) : Host.Outcome State Fault Refusal :=
  runCommand .startEnc { mode := s.mode == .idle } startEncEffect s

/-- START_DEC (R202): allowed only in IDLE; it waits for 4 archive bytes. -/
def execStartDec (s : State) : Host.Outcome State Fault Refusal :=
  runWaiting .startDec { mode := s.mode == .idle } 4 startDecEffect s

/-- FLUSH (R208): allowed only in ENC. -/
def execFlush (s : State) : Host.Outcome State Fault Refusal :=
  runCommand .flush { mode := s.mode == .enc } flushEffect s

/-- STOP (R209): allowed only in DEC. -/
def execStop (s : State) : Host.Outcome State Fault Refusal :=
  runCommand .stop { mode := s.mode == .dec } stopEffect s

end Sys2Proof.Machine
end

