-- ==== Sys2Proof/Machine/Dispatch.lean ====
section
/-! DEFINITION. The meaning of each command (30_encoding.md R135). -/

namespace Sys2Proof.Machine

def exec (i : Instr) (s : State) : Host.Outcome State Fault Refusal :=
  match i with
  | .nop => Sys2Proof.Machine.execNop s
  | .startEnc => Sys2Proof.Machine.execStartEnc s
  | .startDec => Sys2Proof.Machine.execStartDec s
  | .flush => Sys2Proof.Machine.execFlush s
  | .stop => Sys2Proof.Machine.execStop s
  | .encBit imm => Sys2Proof.Machine.execEncBit imm s
  | .decBit => Sys2Proof.Machine.execDecBit s
  | .peekP => Sys2Proof.Machine.execPeekP s
  | .readReg imm => Sys2Proof.Machine.execReadReg imm s
  | .bhQuery code => Sys2Proof.Machine.execBhQuery code s
  | .cmSet lane fp => Sys2Proof.Machine.execCmSet lane fp s
  | .cmMix => Sys2Proof.Machine.execCmMix s
  | .cmSetScale imm => Sys2Proof.Machine.execCmSetScale imm s
  | .mxAdd imm => Sys2Proof.Machine.execMxAdd imm s
  | .mxSelect bank ctx => Sys2Proof.Machine.execMxSelect bank ctx s
  | .mxSetN imm => Sys2Proof.Machine.execMxSetN imm s
  | .mxSetActive imm => Sys2Proof.Machine.execMxSetActive imm s
  | .mxSetLr imm => Sys2Proof.Machine.execMxSetLr imm s
  | .mxSetScale imm => Sys2Proof.Machine.execMxSetScale imm s
  | .apmSetCtx imm => Sys2Proof.Machine.execApmSetCtx imm s
  | .apmSetRate imm => Sys2Proof.Machine.execApmSetRate imm s
  | .apmEnable imm => Sys2Proof.Machine.execApmEnable imm s
  | .dmcMix => Sys2Proof.Machine.execDmcMix s
  | .dmcSetScale imm => Sys2Proof.Machine.execDmcSetScale imm s

end Sys2Proof.Machine
end

