-- ==== Sys2Proof/Machine/Step.lean ====
section
/-! DEFINITION. The command cycle (40_pipeline.md R170), and the host's placement of one command. -/

namespace Sys2Proof.Machine

/-- One turn of CYCLE (R170). A halted core and a core whose command's words are not all there take nothing: the state
stays (log 3). An ill-formed configuration has no step (00_scope.md R6). -/
def step (s : State) : Host.Outcome State Fault Refusal :=
  if s.cfg.wf then
    if s.halt then .next s
    else
      match fetch s with
      | .incomplete => .next s
      | .illegal hdr => .next (faultAtHead .illegal hdr s)
      | .reserved hdr => .next (faultAtHead .resv hdr s)
      | .command i => exec i s
  else .refused .illFormedConfig

/-- `s` with the words of one command at the head of its command port and HALT clear, so that the next step takes that
command. The words are those `decodeTableWord` decodes; it stands for the host's write of them (log 2). -/
def State.withFetchWord (s : State) (nbits w : Nat) : State :=
  { s with halt := false, ports := { s.ports with cmd := tableWords nbits w ++ s.ports.cmd } }

end Sys2Proof.Machine
end

