-- ==== Sys2Proof/Machine/Assembler.lean ====
section
/-! DEFINITION. The assembler of 30_encoding.md R139 and its pseudo-instructions R140. It stands outside the core; a
line gives command words. DESIGN CHOICE: the details of the text that R139 leaves open, where a definition below settles one
(log 14). Safe: no rule of the core reads assembly text. -/

namespace Sys2Proof.Machine

/-- A line of assembly: a command, or a pseudo-instruction of R140. -/
inductive AsmLine where
  | command (i : Instr)
  | encb (y : Half)
  | decb
  | mxAddP (p : Nat)
  | encByte (v : Byte)
deriving DecidableEq, Repr

/-- `ENCB y` (R140). -/
def expandEncb (y : Half) : List Instr := [.cmMix, .dmcMix, .encBit y]

/-- The expansion of R140. `MX_ADDP p` pushes stretch(p); `ENCBYTE v` codes v[7] first. -/
def expandLine : AsmLine → List Instr
  | .command i => [i]
  | .encb y => expandEncb y
  | .decb => [.cmMix, .dmcMix, .decBit]
  | .mxAddP p => [.mxAdd (BitVec.ofInt 16 (stretch p))]
  | .encByte v => (List.range 8).flatMap fun k => expandEncb ((v.extractLsb' (7 - k) 1).setWidth 16)

/-- A numeric operand that fits an unsigned field of width `w`. -/
def unsignedField (w : Nat) (v : Int) : Option (BitVec w) :=
  if 0 ≤ v ∧ v < (2 ^ w : Nat) then some (BitVec.ofInt w v) else none

/-- The signed operand of MX_ADD (R134, R139). -/
def signedField (v : Int) : Option Half := if -32768 ≤ v ∧ v ≤ 32767 then some (BitVec.ofInt 16 v) else none

/-- The line a mnemonic and its operands name, "operands in the order of the format's fields from high bits to low"
(R139). DESIGN CHOICE (log 14): a mnemonic is read in the capitals of R135 and R140 alone, so one with a lower-case letter
names no line; nor does a line with another number of operands, or with one that does not fit its field. -/
def lineNamed (name : String) (ops : List Int) : Option AsmLine :=
  let f0 (i : Instr) : Option AsmLine := if ops.isEmpty then some (.command i) else none
  let fi (mk : Half → Instr) : Option AsmLine :=
    match ops with
    | [v] => (unsignedField 16 v).map fun imm => .command (mk imm)
    | _ => none
  match name, ops with
  | "NOP", _ => f0 .nop
  | "START_ENC", _ => f0 .startEnc
  | "START_DEC", _ => f0 .startDec
  | "FLUSH", _ => f0 .flush
  | "STOP", _ => f0 .stop
  | "ENC_BIT", _ => fi .encBit
  | "DEC_BIT", _ => f0 .decBit
  | "PEEK_P", _ => f0 .peekP
  | "READ_REG", _ => fi .readReg
  | "BH_QUERY", [v] => (unsignedField 8 v).map fun code => .command (.bhQuery code)
  | "CM_SET", [l, v] => (unsignedField 8 l).bind fun lane => (unsignedField 64 v).map fun fp => .command (.cmSet lane fp)
  | "CM_MIX", _ => f0 .cmMix
  | "CM_SETSCALE", _ => fi .cmSetScale
  | "MX_ADD", [v] => (signedField v).map fun imm => .command (.mxAdd imm)
  | "MX_SELECT", [b, v] => (unsignedField 8 b).bind fun bank => (unsignedField 16 v).map fun ctx => .command (.mxSelect bank ctx)
  | "MX_SETN", _ => fi .mxSetN
  | "MX_SETACTIVE", _ => fi .mxSetActive
  | "MX_SETLR", _ => fi .mxSetLr
  | "MX_SETSCALE", _ => fi .mxSetScale
  | "APM_SETCTX", _ => fi .apmSetCtx
  | "APM_SETRATE", _ => fi .apmSetRate
  | "APM_ENABLE", _ => fi .apmEnable
  | "DMC_MIX", _ => f0 .dmcMix
  | "DMC_SETSCALE", _ => fi .dmcSetScale
  | "ENCB", [v] => (unsignedField 16 v).map .encb
  | "DECB", [] => some .decb
  | "MX_ADDP", [v] => if 0 ≤ v ∧ v ≤ 4095 then some (.mxAddP v.toNat) else none
  | "ENCBYTE", [v] => (unsignedField 8 v).map .encByte
  | _, _ => none

/-- A list of characters without leading and trailing spaces. DESIGN CHOICE (log 14): the space character is the only white
space; a tab is not trimmed and separates nothing, so a line that holds one outside its comment is refused. -/
def trimSpaces (l : List Char) : List Char :=
  ((l.dropWhile (· == ' ')).reverse.dropWhile (· == ' ')).reverse

/-- The value of a decimal or hexadecimal digit. DESIGN CHOICE (log 14): a hexadecimal digit may be of either case. -/
def digitValue (c : Char) : Option Nat :=
  if '0' ≤ c ∧ c ≤ '9' then some (c.toNat - 48)
  else if 'a' ≤ c ∧ c ≤ 'f' then some (c.toNat - 87)
  else if 'A' ≤ c ∧ c ≤ 'F' then some (c.toNat - 55)
  else none

/-- Digits in a base, most significant first. -/
def digitsValue (base : Nat) : Nat → List Char → Option Nat
  | acc, [] => some acc
  | acc, c :: l =>
    match digitValue c with
    | some d => if d < base then digitsValue base (acc * base + d) l else none
    | none => none

/-- "Numbers are decimal, or hexadecimal with `0x`; MX_ADD takes a signed decimal" (R139). DESIGN CHOICE (log 14): the only
sign is a `-` directly before decimal digits, so a leading `+` is refused, and so is a sign on a hexadecimal number; the
prefix is `0x` and not `0X`; a number has at least one digit, and nothing but digits after its sign or prefix. -/
def parseNumber : List Char → Option Int
  | '0' :: 'x' :: c :: l => (digitsValue 16 0 (c :: l)).map Int.ofNat
  | '-' :: c :: l => (digitsValue 10 0 (c :: l)).map fun n => -(n : Int)
  | c :: l => (digitsValue 10 0 (c :: l)).map Int.ofNat
  | [] => none

/-- The parts of a list between commas. -/
def splitCommas : List Char → List (List Char)
  | [] => [[]]
  | c :: l =>
    if c = ',' then [] :: splitCommas l
    else
      match splitCommas l with
      | p :: ps => (c :: p) :: ps
      | [] => [[c]]

/-- The operands of a line, `[operand {, operand}]` (R139). DESIGN CHOICE (log 14): spaces around an operand are skipped, and
an empty operand between commas is refused. -/
def parseOperands (l : List Char) : Option (List Int) :=
  if (trimSpaces l).isEmpty then some [] else (splitCommas l).mapM fun p => parseNumber (trimSpaces p)

/-- One line of assembly, one command per line, `;` starting a comment (R139): the commands it stands for. DESIGN CHOICE
(log 14): an empty line, or one with a comment alone, gives no command; spaces before the mnemonic are skipped, and at least
one space stands between it and its first operand. -/
def assemble (line : String) : Option (List Instr) :=
  let l := trimSpaces (line.toList.takeWhile (· != ';'))
  if l.isEmpty then some []
  else
    let name := l.takeWhile (· != ' ')
    (parseOperands (l.drop name.length)).bind fun ops => (lineNamed (String.ofList name) ops).map expandLine

/-- The words of a line of assembly. -/
def assembleWords (line : String) : Option (List Word) := (assemble line).map fun is => is.flatMap encode

end Sys2Proof.Machine
end

