-- ==== Sys2Proof/Safety.lean ====
section
/-! DEFINITION. What the statements speak of: the host's actions and the states a core can reach, the invariants of the
spec, what a coded bit does to the lanes, the tables of 30_encoding.md R136 and 60_exceptions.md R404 as data, and the session
programs of 41_coder.md R210. -/

namespace Sys2Proof.Machine

/-! ## The host's actions and reachable states -/

/-- What the host can do between two commands (20_memory.md R102 to R107). -/
inductive HostAction where
  | writeCommand (w : Word)
  | pushByte (b : Byte)
  | raiseEos
  | takeResult
  | takeByte
  | reset
deriving DecidableEq, Repr

/-- The state after a host action. -/
def hostDo : HostAction → State → State
  | .writeCommand w, s => hostWriteCommand w s
  | .pushByte b, s => hostPushByte b s
  | .raiseEos, s => hostRaiseEos s
  | .takeResult, s => (hostTakeResult s).2
  | .takeByte, s => (hostTakeByte s).2
  | .reset, s => hardwareReset s

/-- The states a core built from `c` reaches from hardware reset by its own steps and the host's actions. -/
inductive Reachable (c : Cfg) : State → Prop where
  | reset : Reachable c (State.resetWith c)
  | step {s t : State} : Reachable c s → Machine.step s = .next t → Reachable c t
  | host {s : State} (a : HostAction) : Reachable c s → Reachable c (hostDo a s)

/-! ## Invariants -/

/-- Every internal table is in its canonical form (log 5). -/
def Memory.wf (s : State) : Bool :=
  tableWf weightInit s.mixer.weights && tableWf apmInit s.apm.entries && tableWf slotInit s.cm.slots &&
  tableWf mruInit s.cm.mru && tableWf smInit s.cm.sm1 && tableWf smInit s.cm.sm2 &&
  s.dmc.insts.all fun d => tableWf nodeInit d.nodes && tableWf smInit d.smd

/-- The position and interval invariants: 2^BPOS <= C0 < 2^(BPOS+1) (10_state.md R46), X1 < X2 with different top bytes
(41_coder.md R205). -/
structure PositionInv (s : State) : Prop where
  c0Low : 2 ^ s.bpos.toNat ≤ s.c0.toNat
  c0High : s.c0.toNat < 2 ^ (s.bpos.toNat + 1)
  ordered : s.coder.x1.toNat < s.coder.x2.toNat
  apart : topByte s.coder.x1 ≠ topByte s.coder.x2

/-- The register files have the sizes of CFG (10_state.md R49, R58, R61, 00_scope.md R5). -/
structure ShapeInv (s : State) : Prop where
  sel : s.mixer.sel.length = s.cfg.mxNsel
  blend : s.mixer.blend.length = s.cfg.mxNsel
  lanes : s.cm.lanes.length = s.cfg.cmLanes
  insts : s.dmc.insts.length = dmcN

/-- The control registers hold legal values (10_state.md R49, R50), and every MXIN entry below MX_COUNT has been written
(R57). -/
structure ControlInv (s : State) : Prop where
  countLeN : s.mixer.count.toNat ≤ s.mixer.n.toNat
  nLeMax : s.mixer.n.toNat ≤ s.cfg.mxMaxN
  activePos : 1 ≤ s.mixer.active.toNat
  activeLe : s.mixer.active.toNat ≤ s.cfg.mxNsel
  selLegal : ∀ j, j < s.cfg.mxNsel → selAt s.mixer j < s.cfg.mxKsel
  written : s.mixer.count.toNat ≤ s.mixer.inputs.length
  apmCtx : s.apm.ctx.toNat < s.cfg.apmNctx
  apmRate : 1 ≤ s.apm.rate.toNat

/-- A handle names a slot of the bucket table (10_state.md R61, 20_memory.md R101). -/
def HandleLegal (c : Cfg) (h : Handle) : Prop := h.bucket.toNat < 2 ^ c.cmLog2b ∧ h.slot.toNat < c.cmSlots

/-- The context-map invariants: handles inside the table; the checksums of one bucket pairwise distinct but for 0
(43_contextmap.md R257.1); the MRU pair names two different slots of the bucket, or none (R256, 10_state.md R60). -/
structure ContextInv (s : State) : Prop where
  handles : ∀ l, l < s.cfg.cmLanes → HandleLegal s.cfg (laneAt s.cm l).h0 ∧ HandleLegal s.cfg (laneAt s.cm l).cur
  checksums : ∀ b i j, i < s.cfg.cmSlots → j < s.cfg.cmSlots → i ≠ j →
    (slotAt s.cm b i).chk = (slotAt s.cm b j).chk → (slotAt s.cm b i).chk = 0
  recent : ∀ b, ((mruAt s.cm b).mru0 = 15 ∨ (mruAt s.cm b).mru0.toNat < s.cfg.cmSlots) ∧
    ((mruAt s.cm b).mru1 = 15 ∨ (mruAt s.cm b).mru1.toNat < s.cfg.cmSlots) ∧
    ((mruAt s.cm b).mru0 = (mruAt s.cm b).mru1 → (mruAt s.cm b).mru0 = 15)

/-- The invariants of a DMC instance (45_dmc.md R364, 1 to 5), and its node states are used codes (42_bithistory.md
R231). -/
structure InstInv (c : Cfg) (i : Nat) (d : DmcInst) : Prop where
  topLow : initialTop ≤ d.top.toNat
  topHigh : d.top.toNat ≤ c.cap i
  curr : d.curr.toNat < d.top.toNat
  children : ∀ n, n < d.top.toNat → ∀ y, (nodeNext (nodeAt d n) y).toNat < d.top.toNat
  noSelfLoop : ∀ n, n < d.top.toNat → ∀ y, (nodeNext (nodeAt d n) y).toNat ≠ n
  counted : ∀ n, n < d.top.toNat → 1 ≤ nodeTotal (nodeAt d n)
  states : ∀ n, n < d.top.toNat → (nodeAt d n).st.toNat < c.bhTable.length
  thrLow : c.thrInit i ≤ d.thr.toNat
  thrHigh : d.thr.toNat ≤ c.thrCap i

/-- The DMC invariants: ten instances, each of them sound. -/
def ForestInv (s : State) : Prop := s.dmc.insts.length = dmcN ∧ ∀ i, i < dmcN → InstInv s.cfg i (instAt s.dmc i)

/-- All the invariants of a core built from a configuration that R6 accepts; `tables` is the model's own (log 5). -/
structure CoreInv (s : State) : Prop where
  config : s.cfg.wf = true
  tables : Memory.wf s = true
  position : PositionInv s
  shape : ShapeInv s
  control : ControlInv s
  context : ContextInv s
  forest : ForestInv s

/-! ## What a coded bit does to the lanes (40_pipeline.md R174 part 3, R176, R177) -/

/-- The lanes below `n` that hold a context, in ascending order. -/
def validLanes (m : ContextMap) (n : Nat) : List Nat := (List.range n).filter fun l => (laneAt m l).valid

/-- The context map after part 3 of UPDATE (40_pipeline.md R174): CM_UPDATE(L, y) of each valid lane. -/
def lanesTrained (s : State) (y : Bool) : ContextMap :=
  (validLanes s.cm s.cfg.cmLanes).foldl (fun m l => cmUpdate s.cfg s.bpos s.c0 y l m) s.cm

/-- The context map after CM_RESOLVE (40_pipeline.md R177) has taken the valid lanes below `n`: for each, HASH with the new C0
and FIND (43_contextmap.md R254, R255), then LANE_CUR. -/
def lanesResolved (c : Cfg) (c0 : BitVec 9) (n : Nat) (m : ContextMap) : ContextMap :=
  (validLanes m n).foldl (fun m l =>
    let h := hash c.cmLog2b (laneAt m l).fp l c0
    let r := find c.cmSlots h.1.toNat h.2 m
    setLane r.2 l { laneAt r.2 l with cur := { bucket := h.1, slot := BitVec.ofNat 4 r.1 } }) m

/-- The context map after a byte boundary (40_pipeline.md R176): CM_RUN_UPDATE of each valid lane, then no lane is valid. -/
def lanesClosed (c : Cfg) (byte : Byte) (m : ContextMap) : ContextMap :=
  let z := (validLanes m c.cmLanes).foldl (fun m l => cmRunUpdate byte l m) m
  { z with lanes := z.lanes.map fun t => { t with valid := false } }

/-! ## The encoding tables as data -/

/-- The opcodes 30_encoding.md R136 lists as illegal. -/
def illegalOp (op : Nat) : Bool :=
  within 0x09 0x0F op || within 0x11 0x1F op || within 0x23 0x2F op || within 0x36 0x37 op || within 0x3B 0x3F op ||
  within 0x42 0xFF op

/-- The reserved bits of a legal opcode, by the "reserved bits" column of 60_exceptions.md R404. -/
def reservedBitsOf (op : Nat) : Word :=
  if op = 0x31 then 0
  else if op = 0x10 || op = 0x20 then 0x00FFFF00
  else if op = 0x05 || op = 0x08 || op = 0x22 || op = 0x30 || within 0x32 0x35 op || within 0x38 0x3A op || op = 0x41 then
    0x00FF0000
  else 0x00FFFFFF

/-! ## The table of 60_exceptions.md R404 as data -/

/-- The "allowed modes" column. -/
def allowedModes : Instr → List Mode
  | .startEnc | .startDec => [.idle]
  | .flush | .encBit _ => [.enc]
  | .stop | .decBit => [.dec]
  | .peekP | .cmSet _ _ | .cmMix | .mxAdd _ | .dmcMix => [.enc, .dec]
  | .nop | .readReg _ | .bhQuery _ | .cmSetScale _ | .mxSelect _ _ | .mxSetN _ | .mxSetActive _ | .mxSetLr _
  | .mxSetScale _ | .apmSetCtx _ | .apmSetRate _ | .apmEnable _ | .dmcSetScale _ => [.idle, .enc, .dec]

/-- The "phase" column. -/
def phaseHolds (s : State) : Instr → Bool
  | .cmSet _ _ => s.bpos == 0
  | .mxSetN _ | .mxSetActive _ => s.mixer.count == 0
  | .nop | .startEnc | .startDec | .flush | .stop | .encBit _ | .decBit | .peekP | .readReg _ | .bhQuery _ | .cmMix => true
  | .cmSetScale _ | .mxAdd _ | .mxSelect _ _ | .mxSetLr _ | .mxSetScale _ | .apmSetCtx _ | .apmSetRate _ => true
  | .apmEnable _ | .dmcMix | .dmcSetScale _ => true

/-- The "pushed" column: none where the table has "-". -/
def pushedBy (c : Cfg) : Instr → Option Nat
  | .cmMix => some (c.cmLanes * c.laneK)
  | .mxAdd _ => some 1
  | .dmcMix => some 10
  | .nop | .startEnc | .startDec | .flush | .stop | .encBit _ | .decBit | .peekP | .readReg _ | .bhQuery _ => none
  | .cmSet _ _ | .cmSetScale _ | .mxSelect _ _ | .mxSetN _ | .mxSetActive _ | .mxSetLr _ | .mxSetScale _ => none
  | .apmSetCtx _ | .apmSetRate _ | .apmEnable _ | .dmcSetScale _ => none

/-- The "E_COUNT" column. -/
def needsCount : Instr → Bool
  | .encBit _ | .decBit | .peekP => true
  | .nop | .startEnc | .startDec | .flush | .stop | .readReg _ | .bhQuery _ | .cmSet _ _ | .cmMix | .cmSetScale _ => false
  | .mxAdd _ | .mxSelect _ _ | .mxSetN _ | .mxSetActive _ | .mxSetLr _ | .mxSetScale _ | .apmSetCtx _ | .apmSetRate _ => false
  | .apmEnable _ | .dmcMix | .dmcSetScale _ => false

/-- The first check of R404 that a decoded command fails, in the order E_MODE, E_PHASE, E_RANGE, E_OVF, E_COUNT. -/
def expectedError (i : Instr) (s : State) : Option ErrCode :=
  if s.mode ∉ allowedModes i then some .mode
  else if phaseHolds s i = false then some .phase
  else if i.operandsLegal s.cfg = false then some .range
  else if ∃ n ∈ pushedBy s.cfg i, s.mixer.n.toNat < s.mixer.count.toNat + n then some .ovf
  else if needsCount i = true ∧ s.mixer.count ≠ s.mixer.n then some .count
  else none

/-- The archive-in bytes a command calls for (20_memory.md R104): START_DEC and DEC_BIT alone. -/
def bytesNeeded (s : State) : Instr → Nat
  | .startDec => 4
  | .decBit => decBitNeed s
  | .nop | .startEnc | .flush | .stop | .encBit _ | .peekP | .readReg _ | .bhQuery _ | .cmSet _ _ | .cmMix => 0
  | .cmSetScale _ | .mxAdd _ | .mxSelect _ _ | .mxSetN _ | .mxSetActive _ | .mxSetLr _ | .mxSetScale _ | .apmSetCtx _ => 0
  | .apmSetRate _ | .apmEnable _ | .dmcMix | .dmcSetScale _ => 0

/-- The state a fault of a decoded command leaves (60_exceptions.md R402). -/
def faulted (code : ErrCode) (i : Instr) (s : State) : State := takeFault code i.header (consume i.words s)

/-! ## Sessions (41_coder.md R210) -/

/-- Two states hold the same model: every unit, the position, the step counter and the interval, the archive ports, the
window, the mode and the byte counters apart. -/
structure SameModel (s t : State) : Prop where
  cfg : s.cfg = t.cfg
  bpos : s.bpos = t.bpos
  c0 : s.c0 = t.c0
  c1 : s.c1 = t.c1
  bitCnt : s.bitCnt = t.bitCnt
  x1 : s.coder.x1 = t.coder.x1
  x2 : s.coder.x2 = t.coder.x2
  lastP : s.coder.lastP = t.coder.lastP
  mixer : s.mixer = t.mixer
  apm : s.apm = t.apm
  cm : s.cm = t.cm
  dmc : s.dmc = t.dmc

/-- Commands a host may send between START and the end of a session, and that the decoder's host repeats: the model
commands, the control registers' and ENC_BIT (70_reset_and_hazards.md R443). -/
def isModelCommand : Instr → Bool
  | .encBit _ | .cmSet _ _ | .cmMix | .cmSetScale _ | .mxAdd _ | .mxSelect _ _ | .mxSetN _ | .mxSetActive _ | .mxSetLr _ => true
  | .mxSetScale _ | .apmSetCtx _ | .apmSetRate _ | .apmEnable _ | .dmcMix | .dmcSetScale _ => true
  | .nop | .startEnc | .startDec | .flush | .stop | .decBit | .peekP | .readReg _ | .bhQuery _ => false

/-- The decoder's command for the encoder's: each ENC_BIT y is DEC_BIT (70_reset_and_hazards.md R443). -/
def mirrored : Instr → Instr
  | .encBit _ => .decBit
  | i => i

/-- The bits a command sequence codes, in order. -/
def codedBits : List Instr → List Bool
  | [] => []
  | .encBit imm :: l => immBit imm :: codedBits l
  | _ :: l => codedBits l

/-- The commands run one after another; none when one faults. -/
def runAll : List Instr → State → Option State
  | [], s => some s
  | i :: l, s =>
    match exec i s with
    | .next t => if t.halt then none else runAll l t
    | _ => none

/-- A 32-bit window of four bytes, the first in bits [31:24] (41_coder.md R202). -/
def windowOf (b3 b2 b1 b0 : Byte) : Word := b3 ++ b2 ++ b1 ++ b0

/-- The window on the first four bytes of an archive, 0x00 standing for a byte beyond its end (20_memory.md R104). -/
def archiveWindow (z : List Byte) : Word := windowOf (z.getD 0 0) (z.getD 1 0) (z.getD 2 0) (z.getD 3 0)

end Sys2Proof.Machine
end

