-- ==== Sys2Proof/Certificates/Slice0/Obligations.lean ====
section
/-! DEFINITION. The statements for the provers. Each docstring names the rules of spec/ a statement formalises; what is the
model's own choice is said so. -/

open Sys2Proof Sys2Proof.Machine

/-! ## Encoding and the command cycle -/

/-- 30_encoding.md R130 to R135: the decoder reads every command back from its encoding, with every operand at every value
its field admits and any words after it. -/
def Obligations.DecodeReadsEncodedCommand : Prop :=
  ∀ (i : Instr) (rest : List Word), decode (encode i ++ rest) = .command i

/-- 30_encoding.md R132, R135, R136: a command is read only from its own encoding; every bit of the header and of the
payload is used or zero. -/
def Obligations.DecodedCommandIsItsEncoding : Prop :=
  ∀ (ws : List Word) (i : Instr), decode ws = .command i → encode i = ws.take i.words ∧ i.words ≤ ws.length

/-- 30_encoding.md R136, with 60_exceptions.md R402: an illegal OP is one word and raises E_ILLEGAL, a nonzero reserved bit
raises E_RESV and consumes the words OP counts, and every other header is a command whatever its payload holds. -/
def Obligations.RejectedHeadersFault : Prop :=
  ∀ (s : State) (hdr : Word) (rest : List Word),
    s.cfg.wf = true → s.halt = false → s.ports.cmd = hdr :: rest →
      (illegalOp (opOf hdr).toNat = true → step s = .next (takeFault .illegal hdr (consume 1 s))) ∧
      (illegalOp (opOf hdr).toNat = false → wordsOf hdr ≤ rest.length + 1 →
        (hdr &&& reservedBitsOf (opOf hdr).toNat ≠ 0 → step s = .next (takeFault .resv hdr (consume (wordsOf hdr) s))) ∧
        (hdr &&& reservedBitsOf (opOf hdr).toNat = 0 → ∃ i, decode s.ports.cmd = .command i ∧ i.header = hdr))

/-- Words written out from the encodings of 30_encoding.md R133, R135 and R139 decode to the commands they stand for. -/
def Obligations.SampleWordsDecode : Prop :=
  decode [0x20000002, 0x00000041, 0x00000001] = .command (.cmSet 2 0x0000000100000041) ∧
  decode [0x05000001] = .command (.encBit 1) ∧
  decode [0x3000FE0C] = .command (.mxAdd (BitVec.ofInt 16 (-500))) ∧
  decode [0x31010005] = .command (.mxSelect 1 5) ∧
  decode [0x100000EE] = .command (.bhQuery 238) ∧
  decode [0x39000010] = .command (.apmSetRate 16) ∧
  decode [0x40000000] = .command .dmcMix ∧
  decode [0x36000001] = .illegal 0x36000001 ∧
  decode [0x05010000] = .reserved 0x05010000 ∧
  decode [0x20000100, 0] = .incomplete

/-- 40_pipeline.md R170: when the words at the head of the command port decode to a command, the step of a core that is
not halted is that command's meaning; it adds nothing around it. -/
def Obligations.StepRunsDecodedCommand : Prop :=
  ∀ (s : State) (i : Instr), s.cfg.wf = true → s.halt = false → decode s.ports.cmd = .command i → step s = exec i s

/-- 40_pipeline.md R170, 20_memory.md R102, 60_exceptions.md R403, R408: a halted core takes nothing, a core whose
command's words are not all there waits with no state change, and of the host's actions only hardware reset clears HALT. -/
def Obligations.HaltedOrWaitingCoreTakesNothing : Prop :=
  (∀ s : State, s.cfg.wf = true → s.halt = true → step s = .next s) ∧
  (∀ s : State, s.cfg.wf = true → decode s.ports.cmd = .incomplete → step s = .next s) ∧
  (∀ (s : State) (a : HostAction), s.halt = true → ((hostDo a s).halt = false ↔ a = .reset))

/-- 00_scope.md R6: a configuration that breaks a range builds no core and has no step; one that meets them all builds the
core in its reset state. The defaults of R5 are accepted at each LEVEL of 0..9 and refused at 10. -/
def Obligations.ConstructionRefusesIllFormedConfig : Prop :=
  (∀ c : Cfg, c.wf = false → construct c = none ∧ ∀ s : State, s.cfg = c → step s = .refused .illFormedConfig) ∧
  (∀ c : Cfg, c.wf = true → construct c = some (State.resetWith c)) ∧
  (∀ level : Nat, (defaultCfg level).wf = decide (level ≤ 9))

/-- From an accepted configuration every state has a next state: no command ends in a fault outcome or a refusal
(40_pipeline.md R170, 60_exceptions.md R402). -/
def Obligations.StepAlwaysHasNextState : Prop :=
  ∀ s : State, s.cfg.wf = true → ∃ t, step s = .next t

/-- 60_exceptions.md R404, R402 with 40_pipeline.md R170, for every command: the first check of the table that fails decides
the fault, which changes nothing else; a command that passes them all runs once its archive bytes are there, consuming its
words and raising nothing; until then it waits and changes nothing. -/
def Obligations.ChecksDecideEveryCommand : Prop :=
  ∀ (i : Instr) (s : State),
    (∀ code, expectedError i s = some code → exec i s = .next (faulted code i s)) ∧
    (expectedError i s = none → available (bytesNeeded s i) s = true →
      ∃ t, exec i s = .next t ∧ t.halt = s.halt ∧ t.errCode = s.errCode ∧ t.errCmd = s.errCmd ∧
        t.ports.cmd = s.ports.cmd.drop i.words) ∧
    (expectedError i s = none → available (bytesNeeded s i) s = false → exec i s = .next s)

/-- 40_pipeline.md R181 and 00_scope.md R4: no step changes CFG, and MODE changes only along the mode graph, by the command
each edge names. -/
def Obligations.ModeChangesOnlyAlongTheGraph : Prop :=
  ∀ s t : State, step s = .next t →
    t.cfg = s.cfg ∧
    (t.mode ≠ s.mode →
      (s.mode = .idle ∧ t.mode = .enc ∧ decode s.ports.cmd = .command .startEnc) ∨
      (s.mode = .idle ∧ t.mode = .dec ∧ decode s.ports.cmd = .command .startDec) ∨
      (s.mode = .enc ∧ t.mode = .idle ∧ decode s.ports.cmd = .command .flush) ∨
      (s.mode = .dec ∧ t.mode = .idle ∧ decode s.ports.cmd = .command .stop))

/-! ## Reset and the ports -/

/-- 70_reset_and_hazards.md R440 for every configuration (MXIN apart, which the rule leaves unspecified): the state after
hardware reset, table by table. -/
def Obligations.ResetValues : Prop :=
  (∀ s : State, hardwareReset s = State.resetWith s.cfg) ∧
  ∀ (c : Cfg) (s : State), s = State.resetWith c →
    (s.cfg = c ∧ s.mode = .idle ∧ s.halt = false ∧ s.errCode = .none ∧ s.errCmd = 0) ∧
    (s.bpos = 0 ∧ s.c0 = 1 ∧ s.c1 = 0 ∧ s.bitCnt = 0 ∧ s.outCnt = 0 ∧ s.inCnt = 0) ∧
    (s.coder.x1 = 0 ∧ s.coder.x2 = 0xFFFFFFFF ∧ s.coder.x = 0 ∧ s.coder.lastP = 0) ∧
    (s.mixer.n = 0 ∧ s.mixer.count = 0 ∧ s.mixer.active = 1 ∧ s.mixer.lr = 7 ∧ s.mixer.scale = 256) ∧
    (∀ j, j < c.mxNsel → selAt s.mixer j = 0 ∧ blendAt s.mixer j = 65536) ∧
    (∀ j k l, weightAt s.mixer j k l = 0) ∧
    (s.apm.ctx = 0 ∧ s.apm.rate = 7 ∧ s.apm.enabled = true) ∧
    (∀ x k, k < 33 → (apmAt s.apm x k).toNat = 16 * squash (((k : Int) - 16) * 128)) ∧
    (s.cm.scale = 256 ∧ s.dmc.scale = 256) ∧
    (∀ l, l < c.cmLanes → (laneAt s.cm l).valid = false ∧ (laneAt s.cm l).fp = 0 ∧
      (laneAt s.cm l).h0 = ⟨0, 0⟩ ∧ (laneAt s.cm l).cur = ⟨0, 0⟩) ∧
    (∀ b k, (slotAt s.cm b k).chk = 0 ∧ (∀ i, slotByte (slotAt s.cm b k) i = 0) ∧ mruAt s.cm b = ⟨15, 15⟩) ∧
    (∀ l k, sm1At s.cm l k = 32768 ∧ sm2At s.cm l k = 32768) ∧
    (∀ i, i < dmcN → (instAt s.dmc i).top = 65280 ∧ (instAt s.dmc i).curr = 0 ∧ (instAt s.dmc i).extra = 0 ∧
      (instAt s.dmc i).thr = BitVec.ofNat 32 (c.thrInit i) ∧ (∀ k, smdAt (instAt s.dmc i) k = 32768) ∧
      (∀ p j, p < 256 → j < 127 → nodeAt (instAt s.dmc i) (p * 255 + j) =
        ⟨1024, 1024, BitVec.ofNat 28 (p * 255 + 2 * j + 1), BitVec.ofNat 28 (p * 255 + 2 * j + 2), 0⟩) ∧
      (∀ p j, p < 256 → 127 ≤ j → j < 255 → nodeAt (instAt s.dmc i) (p * 255 + j) =
        ⟨1024, 1024, BitVec.ofNat 28 (2 * (j - 127) * 255), BitVec.ofNat 28 ((2 * (j - 127) + 1) * 255), 0⟩) ∧
      (∀ n, 65280 ≤ n → nodeAt (instAt s.dmc i) n = ⟨0, 0, 0, 0, 0⟩)) ∧
    (s.ports.cmd = [] ∧ s.ports.result = [] ∧ s.ports.archIn = [] ∧ s.ports.eos = false ∧ s.ports.archOut = [])

/-- 20_memory.md R102 to R106: the host's side of the ports. A word written is the last of the queue; a byte pushed while
EOS = 1 is dropped; words and bytes are taken in the order appended; the side-band port shows STATUS, ERR_CODE and ERR_CMD
in any state. Each of these leaves every other field alone. -/
def Obligations.HostPortsKeepOrder : Prop :=
  ∀ (s : State) (w : Word) (b : Byte),
    hostWriteCommand w s = { s with ports := { s.ports with cmd := s.ports.cmd ++ [w] } } ∧
    (s.ports.eos = true → hostPushByte b s = s) ∧
    (s.ports.eos = false → hostPushByte b s = { s with ports := { s.ports with archIn := s.ports.archIn ++ [b] } }) ∧
    hostRaiseEos s = { s with ports := { s.ports with eos := true } } ∧
    (∀ l, s.ports.result = w :: l → hostTakeResult s = (some w, { s with ports := { s.ports with result := l } })) ∧
    (s.ports.result = [] → hostTakeResult s = (none, s)) ∧
    (∀ l, s.ports.archOut = b :: l → hostTakeByte s = (some b, { s with ports := { s.ports with archOut := l } })) ∧
    (s.ports.archOut = [] → hostTakeByte s = (none, s)) ∧
    sideBand s = (statusWord s, BitVec.ofNat 32 (errNat s.errCode), s.errCmd)

/-- 20_memory.md R103: only DEC_BIT, PEEK_P, READ_REG and BH_QUERY append to the result port, each exactly one word when it
runs; no command takes a word from it. -/
def Obligations.ResultPortGrowsByQueriesAlone : Prop :=
  ∀ (i : Instr) (s t : State), exec i s = .next t →
    t.ports.result = s.ports.result ∨
    ((i = .decBit ∨ i = .peekP ∨ (∃ imm, i = .readReg imm) ∨ ∃ code, i = .bhQuery code) ∧
      ∃ w, t.ports.result = s.ports.result ++ [w])

/-! ## Sessions -/

/-- 41_coder.md R201: START_ENC in IDLE runs MODEL_INIT and sets MODE to ENC. The model state is rewritten to its initial
values whatever ran before; the control registers, the error registers and the ports are kept. In any other mode it raises
E_MODE. That MXIN keeps its entries is the model's choice (log 4): R201 does not say it, and 93_implementation_defined.md I7
allows any value. -/
def Obligations.StartEncInitialisesTheModel : Prop :=
  (∀ s : State, s.mode ≠ .idle → exec .startEnc s = .next (faulted .mode .startEnc s)) ∧
  ∀ s : State, s.mode = .idle →
    ∃ t, exec .startEnc s = .next t ∧
      t = { consume 1 s with
              mode := .enc, bpos := 0, c0 := 1, c1 := 0, bitCnt := 0, outCnt := 0, inCnt := 0
              coder := { x1 := 0, x2 := 0xFFFFFFFF, x := 0, lastP := 0 }
              mixer := { s.mixer with count := 0, weights := t.mixer.weights, blend := t.mixer.blend }
              apm := { s.apm with entries := t.apm.entries }
              cm := { t.cm with scale := s.cm.scale }
              dmc := { t.dmc with scale := s.dmc.scale } } ∧
      (∀ j, j < s.cfg.mxNsel → blendAt t.mixer j = BitVec.ofNat 32 (65536 / s.mixer.active.toNat)) ∧
      (∀ j k l, weightAt t.mixer j k l = 0) ∧
      (∀ x k, k < 33 → (apmAt t.apm x k).toNat = 16 * squash (((k : Int) - 16) * 128)) ∧
      (∀ l, l < s.cfg.cmLanes → laneAt t.cm l = ⟨false, 0, ⟨0, 0⟩, ⟨0, 0⟩⟩) ∧
      (∀ b k, slotAt t.cm b k = slotInit 0 ∧ mruAt t.cm b = ⟨15, 15⟩) ∧
      (∀ l k, sm1At t.cm l k = 32768 ∧ sm2At t.cm l k = 32768) ∧
      t.dmc.insts.length = dmcN ∧
      (∀ i, i < dmcN → instAt t.dmc i = freshInst s.cfg i)

/-- 41_coder.md R202 with 20_memory.md R104: START_DEC in IDLE takes four archive bytes, the first into X[31:24]; after EOS
missing bytes are 0x00 and are not counted; without EOS it waits for four bytes and changes nothing. The rest is as
START_ENC leaves it, MXIN too, which is the model's choice (log 4). In any other mode it raises E_MODE. -/
def Obligations.StartDecReadsTheWindow : Prop :=
  (∀ s : State, s.mode ≠ .idle → exec .startDec s = .next (faulted .mode .startDec s)) ∧
  ∀ s : State, s.mode = .idle →
    (available 4 s = true →
      ∃ t e, exec .startDec s = .next t ∧ exec .startEnc s = .next e ∧
        t = { e with
                mode := .dec
                coder := { e.coder with x := archiveWindow s.ports.archIn }
                inCnt := BitVec.ofNat 32 (min 4 s.ports.archIn.length)
                ports := { e.ports with archIn := s.ports.archIn.drop 4 } }) ∧
    (available 4 s = false → exec .startDec s = .next s)

/-- 41_coder.md R208, R209: FLUSH in ENC writes the four bytes of X1, most significant first, and ends the session; STOP in
DEC empties the archive-in FIFO, clears EOS and ends the session; each leaves every other field alone. In every other mode
each raises E_MODE. -/
def Obligations.FlushAndStopEndTheSession : Prop :=
  ∀ s : State,
    exec .flush s =
      (if s.mode = .enc then
        .next { consume 1 s with
                  mode := .idle, outCnt := s.outCnt + 4
                  ports := { (consume 1 s).ports with
                    archOut := s.ports.archOut ++ [s.coder.x1.extractLsb' 24 8, s.coder.x1.extractLsb' 16 8,
                      s.coder.x1.extractLsb' 8 8, s.coder.x1.extractLsb' 0 8] } }
      else .next (faulted .mode .flush s)) ∧
    exec .stop s =
      (if s.mode = .dec then
        .next { consume 1 s with mode := .idle, ports := { (consume 1 s).ports with archIn := [], eos := false } }
      else .next (faulted .mode .stop s))

/-! ## Coding -/

/-- 41_coder.md R206 with 40_pipeline.md R173 to R177: ENC_BIT in ENC with a bit and all the inputs pushed codes the bit at
p_final, appends the settled bytes, records p_final and trains every unit on the bit, from the prediction made before it: the
mixer and the APM, the valid lanes in ascending order (43_contextmap.md R262), then FIND for them at bit positions 2 and 5 or
the byte boundary at 8, and each DMC instance, with its byte reset at the boundary. -/
def Obligations.EncBitCodesAndTrains : Prop :=
  ∀ (imm : Half) (s : State), s.mode = .enc → imm.toNat ≤ 1 → s.mixer.count = s.mixer.n →
    ∃ t, exec (.encBit imm) s = .next t ∧
      (let y := immBit imm
       let pr := predict s.mixer s.apm
       let b := narrow y s.coder.x1 s.coder.x2 (splitPoint s.coder.x1 s.coder.x2 pr.pFinal)
       let r := normalise b.1 b.2
       let c0 := 2 * s.c0.toNat + bitNat y
       t.coder.x1 = r.2.1 ∧ t.coder.x2 = r.2.2 ∧ t.coder.x = s.coder.x ∧ t.coder.lastP.toNat = pr.pFinal ∧
       t.ports = { s.ports with cmd := s.ports.cmd.drop 1, archOut := s.ports.archOut ++ r.1 } ∧
       t.outCnt = s.outCnt + BitVec.ofNat 32 r.1.length ∧ t.inCnt = s.inCnt ∧
       t.bitCnt = s.bitCnt + 1 ∧ t.mixer = trainMixer pr y s.mixer ∧ t.apm = trainApm pr y s.apm ∧
       (s.bpos = 7 → t.cm = lanesClosed s.cfg (BitVec.ofNat 8 c0) (lanesTrained s y)) ∧
       (s.bpos = 1 ∨ s.bpos = 4 → t.cm = lanesResolved s.cfg (BitVec.ofNat 9 c0) s.cfg.cmLanes (lanesTrained s y)) ∧
       (s.bpos ≠ 7 → s.bpos ≠ 1 → s.bpos ≠ 4 → t.cm = lanesTrained s y) ∧
       t.dmc = { s.dmc with insts := s.dmc.insts.mapIdx fun i d =>
         if s.bpos = 7 then dmcByteReset s.cfg (BitVec.ofNat 8 c0) i (dmcUpdate s.cfg y i d) else dmcUpdate s.cfg y i d } ∧
       t.cfg = s.cfg ∧ t.mode = .enc ∧ t.halt = s.halt ∧ t.errCode = s.errCode ∧ t.errCmd = s.errCmd)

/-- 41_coder.md R207 with 40_pipeline.md R173 to R177: DEC_BIT in DEC with all the inputs pushed and its bytes there decides
the bit by X <= xmid, appends it as a result word, shifts an archive byte into X for each settled byte (0x00 beyond the end)
and trains every unit on the bit as ENC_BIT does. -/
def Obligations.DecBitDecodesAndTrains : Prop :=
  ∀ s : State, s.mode = .dec → s.mixer.count = s.mixer.n →
    let pr := predict s.mixer s.apm
    let xmid := splitPoint s.coder.x1 s.coder.x2 pr.pFinal
    let y := decide (s.coder.x.toNat ≤ xmid.toNat)
    let b := narrow y s.coder.x1 s.coder.x2 xmid
    let r := normalise b.1 b.2
    let c0 := 2 * s.c0.toNat + bitNat y
    (available r.1.length s = true →
      ∃ t, exec .decBit s = .next t ∧
        t.coder.x1 = r.2.1 ∧ t.coder.x2 = r.2.2 ∧ t.coder.lastP.toNat = pr.pFinal ∧
        t.coder.x = (List.range r.1.length).foldl
          (fun (x : Word) (k : Nat) => (x <<< 8) ||| (s.ports.archIn.getD k 0).setWidth 32) s.coder.x ∧
        t.ports = { s.ports with cmd := s.ports.cmd.drop 1, archIn := s.ports.archIn.drop r.1.length,
                                 result := s.ports.result ++ [if y then 1 else 0] } ∧
        t.inCnt = s.inCnt + BitVec.ofNat 32 (min r.1.length s.ports.archIn.length) ∧ t.outCnt = s.outCnt ∧
        t.bitCnt = s.bitCnt + 1 ∧ t.mixer = trainMixer pr y s.mixer ∧ t.apm = trainApm pr y s.apm ∧
        (s.bpos = 7 → t.cm = lanesClosed s.cfg (BitVec.ofNat 8 c0) (lanesTrained s y)) ∧
        (s.bpos = 1 ∨ s.bpos = 4 → t.cm = lanesResolved s.cfg (BitVec.ofNat 9 c0) s.cfg.cmLanes (lanesTrained s y)) ∧
        (s.bpos ≠ 7 → s.bpos ≠ 1 → s.bpos ≠ 4 → t.cm = lanesTrained s y) ∧
        t.dmc = { s.dmc with insts := s.dmc.insts.mapIdx fun i d =>
          if s.bpos = 7 then dmcByteReset s.cfg (BitVec.ofNat 8 c0) i (dmcUpdate s.cfg y i d) else dmcUpdate s.cfg y i d } ∧
        t.cfg = s.cfg ∧ t.mode = .dec ∧ t.halt = s.halt ∧ t.errCode = s.errCode ∧ t.errCmd = s.errCmd) ∧
    (available r.1.length s = false → exec .decBit s = .next s)

/-- 40_pipeline.md R175, R176, R177 with 43_contextmap.md R263: what a coded bit `y` does to the position and the handles.
Below the eighth bit C0 takes the bit and BPOS rises, the lanes stay valid and LANE_H0 is kept; LANE_CUR is kept too, but that
at bit positions 2 and 5 each valid lane, in ascending order, moves to the bucket HASH gives for the new C0 and the slot FIND
gives there, in the context map that FIND for the lanes before it has left; the map after the last is the next state's. At the
eighth bit C1 takes the completed byte, BPOS and C0 start again and no lane is valid. -/
def Obligations.CodingAdvancesThePosition : Prop :=
  ∀ (i : Instr) (s t : State) (y : Bool),
    (i = .encBit (if y then 1 else 0) ∨ (i = .decBit ∧ decBitOf s = y)) → PositionInv s →
    s.cm.lanes.length = s.cfg.cmLanes → expectedError i s = none → available (bytesNeeded s i) s = true →
    exec i s = .next t →
      (s.bpos = 7 → t.bpos = 0 ∧ t.c0 = 1 ∧ t.c1.toNat = 2 * s.c0.toNat + bitNat y - 256 ∧
        ∀ l, l < s.cfg.cmLanes → (laneAt t.cm l).valid = false) ∧
      (s.bpos ≠ 7 → t.bpos = s.bpos + 1 ∧ t.c0.toNat = 2 * s.c0.toNat + bitNat y ∧ t.c1 = s.c1 ∧
        (∀ l, l < s.cfg.cmLanes → (laneAt t.cm l).valid = (laneAt s.cm l).valid ∧ (laneAt t.cm l).fp = (laneAt s.cm l).fp ∧
          (laneAt t.cm l).h0 = (laneAt s.cm l).h0 ∧
          ((t.bpos ≠ 2 ∧ t.bpos ≠ 5) ∨ (laneAt s.cm l).valid = false → (laneAt t.cm l).cur = (laneAt s.cm l).cur)) ∧
        (t.bpos = 2 ∨ t.bpos = 5 →
          (∀ l, l < s.cfg.cmLanes → (laneAt s.cm l).valid = true →
            let h := hash s.cfg.cmLog2b (laneAt s.cm l).fp l t.c0
            let r := find s.cfg.cmSlots h.1.toNat h.2 (lanesResolved s.cfg t.c0 l (lanesTrained s y))
            (laneAt t.cm l).cur = ⟨h.1, BitVec.ofNat 4 r.1⟩ ∧
            (∀ b k, slotAt (lanesResolved s.cfg t.c0 (l + 1) (lanesTrained s y)) b k = slotAt r.2 b k ∧
              mruAt (lanesResolved s.cfg t.c0 (l + 1) (lanesTrained s y)) b = mruAt r.2 b)) ∧
          t.cm = lanesResolved s.cfg t.c0 s.cfg.cmLanes (lanesTrained s y)))

/-- The frame of ENC_BIT and DEC_BIT in the context map (43_contextmap.md R262 to R264): a bucket that no valid lane's
handle names and that no valid lane's hash names with the next C0 is unchanged, and so are the state maps of a lane that is
not valid. The configuration is an accepted one: with more than 16 slots the buckets of the model would overlap. -/
def Obligations.CodingLeavesOtherContexts : Prop :=
  ∀ (i : Instr) (s t : State), s.cfg.wf = true → (i = .decBit ∨ ∃ imm, i = .encBit imm) → exec i s = .next t →
    (∀ b, (∀ l, l < s.cfg.cmLanes → (laneAt s.cm l).valid = true →
        b ≠ (laneAt s.cm l).h0.bucket.toNat ∧ b ≠ (laneAt s.cm l).cur.bucket.toNat ∧
        ∀ y, b ≠ (hash s.cfg.cmLog2b (laneAt s.cm l).fp l ((s.c0 <<< 1) ||| BitVec.ofNat 9 (bitNat y))).1.toNat) →
      (∀ k, k < 16 → slotAt t.cm b k = slotAt s.cm b k) ∧ mruAt t.cm b = mruAt s.cm b) ∧
    (∀ l, (l < s.cfg.cmLanes → (laneAt s.cm l).valid = false) →
      (∀ k, k < 256 → sm1At t.cm l k = sm1At s.cm l k) ∧ (∀ k, k < 768 → sm2At t.cm l k = sm2At s.cm l k))

/-- One step of the argument of 41_coder.md R210. An encoder and a decoder hold the same model; the archive `z` begins with
the bytes the encoder's step settles, and its window after them lies in the encoder's new interval. Then DEC_BIT returns the
encoder's bit, both hold the same model again, and the decoder's window is that of the archive after those bytes. -/
def Obligations.DecoderFollowsEncoderStep : Prop :=
  ∀ (sE sD tE : State) (imm : Half) (z o : List Byte),
    SameModel sE sD → sE.mode = .enc → sD.mode = .dec → imm.toNat ≤ 1 → sE.mixer.count = sE.mixer.n →
    sE.coder.x1.toNat < sE.coder.x2.toNat → exec (.encBit imm) sE = .next tE →
    tE.ports.archOut = sE.ports.archOut ++ o → z.take o.length = o → 4 + o.length ≤ z.length →
    sD.coder.x = archiveWindow z → sD.ports.archIn = z.drop 4 →
    tE.coder.x1.toNat ≤ (archiveWindow (z.drop o.length)).toNat →
    (archiveWindow (z.drop o.length)).toNat ≤ tE.coder.x2.toNat →
    ∃ tD, exec .decBit sD = .next tD ∧ tD.ports.result = sD.ports.result ++ [BitVec.ofNat 32 imm.toNat] ∧ SameModel tE tD ∧
      tD.coder.x = archiveWindow (z.drop o.length) ∧ tD.ports.archIn = z.drop (4 + o.length)

/-- 41_coder.md R210, "decode(encode(B)) == B": from hardware reset, an encoder runs control commands, START_ENC, any
sequence of model commands and ENC_BITs, and FLUSH, none of them faulting. A decoder of the same CFG that is given the
archive, followed by any bytes, with or without EOS, and the same commands with DEC_BIT for ENC_BIT and STOP for FLUSH, runs
them all, returns exactly the coded bits, and ends in the same model state. -/
def Obligations.DecodeOfEncodeReturnsTheBits : Prop :=
  ∀ (c : Cfg) (controls session : List Instr) (more : List Byte) (eos : Bool) (sE : State),
    c.wf = true → controls.all isModelCommand = true → session.all isModelCommand = true →
    runAll (controls ++ [.startEnc] ++ session ++ [.flush]) (State.resetWith c) = some sE →
    ∃ sD, runAll (controls ++ [.startDec] ++ session.map mirrored ++ [.stop])
        { State.resetWith c with ports := { emptyPorts with archIn := sE.ports.archOut ++ more, eos := eos } } = some sD ∧
      sD.ports.result = (codedBits session).map (fun y => if y then 1 else 0) ∧ SameModel sE sD

/-- 41_coder.md R203, R205: for p in [1, 4094] and X1 < X2 the midpoint is computed without wrapping and lies in
[X1, X2 - 1]; bit 1 takes [X1, xmid] and bit 0 takes [xmid + 1, X2]. -/
def Obligations.SplitStaysInsideTheInterval : Prop :=
  ∀ (x1 x2 : Word) (p : Nat), x1.toNat < x2.toNat → 1 ≤ p → p ≤ 4094 →
    (splitPoint x1 x2 p).toNat = x1.toNat + (x2.toNat - x1.toNat) / 4096 * p ∧
    (splitPoint x1 x2 p).toNat < x2.toNat ∧
    narrow true x1 x2 (splitPoint x1 x2 p) = (x1, splitPoint x1 x2 p) ∧
    (narrow false x1 x2 (splitPoint x1 x2 p)).1.toNat = (splitPoint x1 x2 p).toNat + 1 ∧
    (narrow false x1 x2 (splitPoint x1 x2 p)).2 = x2

/-- 41_coder.md R204, R205: for any bounds the loop makes at most four passes and stops with different top bytes; the bytes
it settles are the leading bytes both bounds share; X1 is filled with 0s and X2 with 1s; and X1 <= X2 before gives X1 < X2
after. -/
def Obligations.NormalisationSettlesSharedBytes : Prop :=
  ∀ x1 x2 : Word,
    let r := normalise x1 x2
    r.1.length ≤ 4 ∧ topByte r.2.1 ≠ topByte r.2.2 ∧
    r.1 = (flushBytes x1).take r.1.length ∧ r.1 = (flushBytes x2).take r.1.length ∧
    r.2.1.toNat = x1.toNat * 256 ^ r.1.length % 2 ^ 32 ∧
    r.2.2.toNat = (x2.toNat * 256 ^ r.1.length + (256 ^ r.1.length - 1)) % 2 ^ 32 ∧
    (x1.toNat ≤ x2.toNat → r.2.1.toNat < r.2.2.toNat)

/-! ## Commands that only read -/

/-- 40_pipeline.md R178: NOP is allowed in every mode and has no effect. -/
def Obligations.NopDoesNothing : Prop := ∀ s : State, exec .nop s = .next (consume 1 s)

/-- 40_pipeline.md R179: PEEK_P in a session with all the inputs pushed appends p_final in the lower half and p_mix in the
upper half of one result word, and writes nothing else. In IDLE it raises E_MODE, else without all the inputs E_COUNT. -/
def Obligations.PeekPReportsThePrediction : Prop :=
  (∀ s : State, s.mode = .idle → exec .peekP s = .next (faulted .mode .peekP s)) ∧
  (∀ s : State, s.mode ≠ .idle → s.mixer.count ≠ s.mixer.n → exec .peekP s = .next (faulted .count .peekP s)) ∧
  ∀ s : State, s.mode ≠ .idle → s.mixer.count = s.mixer.n →
    ∃ w, exec .peekP s = .next (result w (consume 1 s)) ∧
      (w.extractLsb' 0 16).toNat = (predict s.mixer s.apm).pFinal ∧
      (w.extractLsb' 16 16).toNat = (predict s.mixer s.apm).pMix

/-- 40_pipeline.md R180: READ_REG appends the register's value in every mode and writes nothing else; an index that
10_state.md R53 does not define raises E_RANGE. -/
def Obligations.ReadRegReturnsTheRegister : Prop :=
  ∀ (imm : Half) (s : State),
    (s.cfg.definesReg imm.toNat = true →
      ∃ w, readRegister s imm.toNat = some w ∧ exec (.readReg imm) s = .next (result w (consume 1 s))) ∧
    (s.cfg.definesReg imm.toNat = false → exec (.readReg imm) s = .next (faulted .range (.readReg imm) s))

/-- 10_state.md R53: under an accepted configuration the indices defined are exactly those the rule lists. -/
def Obligations.RegisterIndicesAreExactlyThoseListed : Prop :=
  ∀ (s : State) (k : Nat), s.cfg.wf = true → ((readRegister s k).isSome = true ↔ s.cfg.definesReg k = true)

/-- 10_state.md R42 to R52: the value at each index of the register map, under an accepted configuration. STATUS holds MODE
in [1:0], HALT in [2], EOS in [3], BPOS in [6:4] and zero above (R44); ERR_CODE is the number of 60_exceptions.md R401. -/
def Obligations.RegisterMapValues : Prop :=
  (∀ s : State, (statusWord s).toNat =
    (match s.mode with | .idle => 0 | .enc => 1 | .dec => 2) + (if s.halt then 4 else 0) + (if s.ports.eos then 8 else 0) +
      16 * s.bpos.toNat) ∧
  (errNat .none = 0 ∧ errNat .illegal = 1 ∧ errNat .resv = 2 ∧ errNat .mode = 3 ∧ errNat .phase = 4 ∧ errNat .range = 5 ∧
    errNat .ovf = 6 ∧ errNat .count = 7) ∧
  ∀ s : State, s.cfg.wf = true →
    (readRegister s 0x000 = some 0x50415138 ∧ readRegister s 0x001 = some 0x00070000) ∧
    (readRegister s 0x002 = some (BitVec.ofNat 32 s.cfg.level) ∧ readRegister s 0x003 = some (BitVec.ofNat 32 s.cfg.cmLog2b) ∧
      readRegister s 0x004 = some (BitVec.ofNat 32 s.cfg.cmSlots) ∧ readRegister s 0x005 = some (BitVec.ofNat 32 s.cfg.cmLanes) ∧
      readRegister s 0x006 = some (if s.cfg.cmByteHist then 1 else 0) ∧
      readRegister s 0x007 = some (BitVec.ofNat 32 s.cfg.mxMaxN) ∧ readRegister s 0x008 = some (BitVec.ofNat 32 s.cfg.mxNsel) ∧
      readRegister s 0x009 = some (BitVec.ofNat 32 s.cfg.mxKsel) ∧ readRegister s 0x00A = some (BitVec.ofNat 32 s.cfg.apmNctx) ∧
      readRegister s 0x00B = some (BitVec.ofNat 32 s.cfg.smRate) ∧ readRegister s 0x00C = some 10 ∧
      readRegister s 0x00D = some (BitVec.ofNat 32 s.cfg.bhTable.length)) ∧
    (readRegister s 0x010 = some (statusWord s) ∧ readRegister s 0x011 = some (BitVec.ofNat 32 (errNat s.errCode)) ∧
      readRegister s 0x012 = some s.errCmd ∧ readRegister s 0x013 = some (s.c0.setWidth 32) ∧
      readRegister s 0x014 = some (s.c1.setWidth 32) ∧ readRegister s 0x015 = some (s.bitCnt.extractLsb' 0 32) ∧
      readRegister s 0x016 = some (s.bitCnt.extractLsb' 32 32) ∧ readRegister s 0x017 = some s.outCnt ∧
      readRegister s 0x018 = some s.inCnt) ∧
    (readRegister s 0x020 = some s.coder.x1 ∧ readRegister s 0x021 = some s.coder.x2 ∧
      readRegister s 0x022 = some s.coder.x ∧ readRegister s 0x023 = some (s.coder.lastP.setWidth 32)) ∧
    (readRegister s 0x030 = some (s.mixer.n.setWidth 32) ∧ readRegister s 0x031 = some (s.mixer.count.setWidth 32) ∧
      readRegister s 0x032 = some (s.mixer.active.setWidth 32) ∧ readRegister s 0x033 = some (s.mixer.lr.setWidth 32) ∧
      readRegister s 0x034 = some (s.mixer.scale.setWidth 32) ∧
      ∀ j, j < s.cfg.mxNsel → readRegister s (0x038 + j) = some (BitVec.ofNat 32 (selAt s.mixer j))) ∧
    (readRegister s 0x040 = some (s.apm.ctx.setWidth 32) ∧ readRegister s 0x041 = some (s.apm.rate.setWidth 32) ∧
      readRegister s 0x042 = some (if s.apm.enabled then 1 else 0)) ∧
    (readRegister s 0x048 = some (s.cm.scale.setWidth 32) ∧ readRegister s 0x049 = some (s.dmc.scale.setWidth 32)) ∧
    (∃ w, readRegister s 0x04A = some w ∧
      ∀ l, l < 32 → w.getLsbD l = (decide (l < s.cfg.cmLanes) && (laneAt s.cm l).valid)) ∧
    (∃ w, readRegister s 0x050 = some w ∧
      ∀ i, i < 32 → w.getLsbD i = (decide (i < 10) && decide (s.cfg.cap i * 1024 < (instAt s.dmc i).extra.toNat))) ∧
    (∀ i, i < dmcN →
      readRegister s (0x060 + i) = some (instAt s.dmc i).top ∧
      readRegister s (0x070 + i) = some ((instAt s.dmc i).curr.setWidth 32) ∧
      readRegister s (0x080 + i) = some (instAt s.dmc i).thr ∧
      readRegister s (0x090 + i) = some ((instAt s.dmc i).extra.extractLsb' 0 32) ∧
      readRegister s (0x0A0 + i) = some ((instAt s.dmc i).extra.extractLsb' 32 32) ∧
      readRegister s (0x0B0 + i) = some (BitVec.ofNat 32 (s.cfg.cap i)) ∧
      readRegister s (0x0C0 + i) = some (BitVec.ofNat 32 (s.cfg.thrInit i)) ∧
      readRegister s (0x0D0 + i) = some (BitVec.ofNat 32 (s.cfg.thrCap i)) ∧
      readRegister s (0x0E0 + i) = some (if s.cfg.resettable i then 1 else 0))

/-- 42_bithistory.md R236 with R231: BH_QUERY appends next0 | next1 << 8 | n0 << 16 | n1 << 24 in every mode and writes
nothing else; an unused code gives the next states of code 0 and zero counts. With the default table the three results that
R236 works out. -/
def Obligations.BhQueryReturnsTheRow : Prop :=
  (∀ s : State, s.cfg.bhTable = defaultBhTable →
    exec (.bhQuery 0) s = .next (result 0x00000102 (consume 1 s)) ∧
    exec (.bhQuery 4) s = .next (result 0x0101090A (consume 1 s)) ∧
    exec (.bhQuery 250) s = .next (result 0x00000102 (consume 1 s))) ∧
  ∀ (code : Byte) (s : State),
    ∃ w, exec (.bhQuery code) s = .next (result w (consume 1 s)) ∧
      (∀ r, s.cfg.bhTable[code.toNat]? = some r →
        w.toNat = r.next0.toNat + 256 * r.next1.toNat + 65536 * r.n0.toNat + 16777216 * r.n1.toNat) ∧
      (∀ r0, s.cfg.bhTable[code.toNat]? = none → s.cfg.bhTable.head? = some r0 →
        w.toNat = r0.next0.toNat + 256 * r0.next1.toNat)

/-- 42_bithistory.md R233, R234: the default table has 239 rows; code 0 is the start state; each transition is the one the
generation rule gives; the rows after the start state are in increasing order of total, then of n0, then of young; no total
is above 26; and every code is reached from code 0. -/
def Obligations.DefaultTableFollowsGenerationRule : Prop :=
  defaultBhTable.length = 239 ∧
  (bhCount defaultBhTable 0 false = 0 ∧ bhCount defaultBhTable 0 true = 0 ∧ bhYoung defaultBhTable 0 = false) ∧
  (∀ code : Byte, (bhCount defaultBhTable code false).toNat + (bhCount defaultBhTable code true).toNat ≤ 26) ∧
  (∀ code : Byte, code.toNat < 239 → ∀ b : Bool,
    (let u := bhNext defaultBhTable code b
     ((bhCount defaultBhTable u false).toNat, (bhCount defaultBhTable u true).toNat, bhYoung defaultBhTable u)) =
      bhGenerate (bhCount defaultBhTable code false).toNat (bhCount defaultBhTable code true).toNat b) ∧
  (∀ code : Byte, code.toNat < 238 →
    let n0 (u : Byte) := (bhCount defaultBhTable u false).toNat
    let total (u : Byte) := n0 u + (bhCount defaultBhTable u true).toNat
    total code < total (code + 1) ∨
    (total code = total (code + 1) ∧
      (n0 code < n0 (code + 1) ∨
        (n0 code = n0 (code + 1) ∧ bhYoung defaultBhTable code = false ∧ bhYoung defaultBhTable (code + 1) = true)))) ∧
  (∀ code : Byte, code.toNat < 239 → ∃ bits : List Bool, bits.foldl (bhNext defaultBhTable) 0 = code)

/-! ## Context map -/

/-- 43_contextmap.md R258: CM_SET of a lane in a session at BPOS = 0 hashes the fingerprint with the lane and C0, finds a
slot and points both handles at it. No other lane, no state map and no other field of the state changes, and no slot but the
one found and no MRU pair but its bucket's (FindFollowsTheScan says how those change). In IDLE it raises E_MODE, else off a
byte boundary E_PHASE, else for a lane the unit has not E_RANGE. -/
def Obligations.CmSetPointsTheLaneAtItsSlot : Prop :=
  (∀ (lane : Byte) (fp : Long) (s : State),
    (s.mode = .idle → exec (.cmSet lane fp) s = .next (faulted .mode (.cmSet lane fp) s)) ∧
    (s.mode ≠ .idle → s.bpos ≠ 0 → exec (.cmSet lane fp) s = .next (faulted .phase (.cmSet lane fp) s)) ∧
    (s.mode ≠ .idle → s.bpos = 0 → s.cfg.cmLanes ≤ lane.toNat →
      exec (.cmSet lane fp) s = .next (faulted .range (.cmSet lane fp) s))) ∧
  ∀ (lane : Byte) (fp : Long) (s : State),
    s.mode ≠ .idle → s.bpos = 0 → lane.toNat < s.cfg.cmLanes → s.cm.lanes.length = s.cfg.cmLanes →
    let h := hash s.cfg.cmLog2b fp lane.toNat s.c0
    let r := find s.cfg.cmSlots h.1.toNat h.2 s.cm
    ∃ t, exec (.cmSet lane fp) s = .next t ∧ t = { consume 3 s with cm := t.cm } ∧
      laneAt t.cm lane.toNat = ⟨true, fp, ⟨h.1, BitVec.ofNat 4 r.1⟩, ⟨h.1, BitVec.ofNat 4 r.1⟩⟩ ∧
      (∀ l, l ≠ lane.toNat → laneAt t.cm l = laneAt s.cm l) ∧
      t.cm = { s.cm with lanes := t.cm.lanes, slots := r.2.slots, mru := r.2.mru }

/-- 43_contextmap.md R259, R260, R261 with R251, R253: CM_MIX in a session with room for them pushes K inputs for each lane,
lane 0 first; an unset lane pushes zeros; a valid one pushes the stretched state-map estimate of its current state, and with
byte histories the run estimate and the joint estimate. The state index and the run's candidate are spelled out. No other
entry and no other field of the state changes. In IDLE it raises E_MODE, without room E_OVF. -/
def Obligations.CmMixPushesEveryLane : Prop :=
  (∀ s : State,
    (s.mode = .idle → exec .cmMix s = .next (faulted .mode .cmMix s)) ∧
    (s.mode ≠ .idle → s.mixer.n.toNat < s.mixer.count.toNat + s.cfg.cmLanes * s.cfg.laneK →
      exec .cmMix s = .next (faulted .ovf .cmMix s))) ∧
  (∀ (bpos : BitVec 3) (c0 : BitVec 9), stateIndex bpos c0 =
    (if bpos = 0 ∨ bpos = 2 ∨ bpos = 5 then 0 else if bpos = 1 ∨ bpos = 3 ∨ bpos = 6 then 1 + c0.toNat % 2
     else 3 + c0.toNat % 4)) ∧
  (∀ (bpos : BitVec 3) (c0 : BitVec 9) (t : Slot),
    let fits (b : Byte) : Prop := (256 + b.toNat) / 2 ^ (8 - bpos.toNat) = c0.toNat
    let ri (b : Byte) : Nat := if b.getLsbD (7 - bpos.toNat) then 2 else 1
    (t.b3 = 0 → runInfo bpos c0 t = (0, 0)) ∧
    (t.b3 ≠ 0 → fits t.b4 → runInfo bpos c0 t = (ri t.b4, min t.b3.toNat 8 * 128)) ∧
    (t.b3 ≠ 0 → ¬ fits t.b4 → fits t.b5 → runInfo bpos c0 t = (ri t.b5, 128)) ∧
    (t.b3 ≠ 0 → ¬ fits t.b4 → ¬ fits t.b5 → fits t.b6 → runInfo bpos c0 t = (ri t.b6, 128)) ∧
    (¬ fits t.b4 → ¬ fits t.b5 → ¬ fits t.b6 → runInfo bpos c0 t = (0, 0))) ∧
  ∀ s : State, s.mode ≠ .idle → s.mixer.count.toNat + s.cfg.cmLanes * s.cfg.laneK ≤ s.mixer.n.toNat →
    let p (e : Half) : Nat := max 1 (min 4094 (e.toNat / 16))
    let st (l : Nat) : Nat := (slotByte (handleSlot s.cm (laneAt s.cm l).cur) (stateIndex s.bpos s.c0)).toNat
    let run (l : Nat) : Nat × Nat := runInfo s.bpos s.c0 (handleSlot s.cm (laneAt s.cm l).h0)
    let in1 (l : Nat) : Int := if st l = 0 then 0 else stretch (p (sm1At s.cm l (st l)))
    let in2 (l : Nat) : Int := if (run l).1 = 0 then 0 else if (run l).1 = 1 then -((run l).2 : Int) else (run l).2
    let in3 (l : Nat) : Int :=
      if st l = 0 ∧ (run l).1 = 0 then 0 else stretch (p (sm2At s.cm l (st l * 3 + (run l).1)))
    let raw (l : Nat) : List Int := if s.cfg.cmByteHist then [in1 l, in2 l, in3 l] else [in1 l]
    ∃ t, exec .cmMix s = .next t ∧
      t = { consume 1 s with mixer := { s.mixer with count := t.mixer.count, inputs := t.mixer.inputs } } ∧
      t.mixer.count.toNat = s.mixer.count.toNat + s.cfg.cmLanes * s.cfg.laneK ∧
      (∀ k, (k < s.mixer.count.toNat ∨ s.mixer.count.toNat + s.cfg.cmLanes * s.cfg.laneK ≤ k) →
        inputAt t.mixer k = inputAt s.mixer k) ∧
      (∀ l i, l < s.cfg.cmLanes → i < s.cfg.laneK →
        (inputAt t.mixer (s.mixer.count.toNat + l * s.cfg.laneK + i)).toInt =
          (if (laneAt s.cm l).valid then
            max (-32768) (min 32767 ((raw l).getD i 0 * (s.cm.scale.toNat : Int) / 256))
          else 0)) ∧
      (∀ l v, v ∈ raw l → -2047 ≤ v ∧ v ≤ 2047)

/-- 43_contextmap.md R255, R256: FIND returns the least slot whose checksum matches, with its bytes kept; else the least
empty slot; else the slot of least priority, least index among equals, outside the two most recently used. A slot taken
without a match holds the checksum and zeroed bytes. TOUCH makes the slot MRU0. Nothing else changes. -/
def Obligations.FindFollowsTheScan : Prop :=
  ∀ (n b : Nat) (chk : Half) (m : ContextMap), 3 ≤ n → n ≤ 15 →
    let r := find n b chk m
    let u := mruAt m b
    r.1 < n ∧
    ((∃ k, k < n ∧ (slotAt m b k).chk = chk) →
      (slotAt m b r.1).chk = chk ∧ (∀ k, k < r.1 → (slotAt m b k).chk ≠ chk) ∧ slotAt r.2 b r.1 = slotAt m b r.1) ∧
    ((∀ k, k < n → (slotAt m b k).chk ≠ chk) → slotAt r.2 b r.1 = { slotInit 0 with chk := chk }) ∧
    ((∀ k, k < n → (slotAt m b k).chk ≠ chk) → (∃ k, k < n ∧ (slotAt m b k).b0 = 0) →
      (slotAt m b r.1).b0 = 0 ∧ ∀ k, k < r.1 → (slotAt m b k).b0 ≠ 0) ∧
    ((∀ k, k < n → (slotAt m b k).chk ≠ chk ∧ (slotAt m b k).b0 ≠ 0) →
      r.1 ≠ u.mru0.toNat ∧ r.1 ≠ u.mru1.toNat ∧
      ∀ k, k < n → k ≠ u.mru0.toNat → k ≠ u.mru1.toNat →
        priority m b r.1 < priority m b k ∨ (priority m b r.1 = priority m b k ∧ r.1 ≤ k)) ∧
    mruAt r.2 b = (if u.mru0.toNat = r.1 then u else ⟨BitVec.ofNat 4 r.1, u.mru0⟩) ∧
    (∀ b' k, k < 16 → (b' ≠ b ∨ k ≠ r.1) → slotAt r.2 b' k = slotAt m b' k) ∧
    (∀ b', b' ≠ b → mruAt r.2 b' = mruAt m b') ∧
    r.2 = { m with slots := r.2.slots, mru := r.2.mru }

/-- 43_contextmap.md R257.2: two calls FIND(b, chk) with no change of the bucket's checksums between them return the same
slot. -/
def Obligations.FindIsStable : Prop :=
  ∀ (n b : Nat) (chk : Half) (m m' : ContextMap), 3 ≤ n → n ≤ 15 →
    (∀ k, k < n → (slotAt m' b k).chk = (slotAt (find n b chk m).2 b k).chk) →
    (find n b chk m').1 = (find n b chk m).1

/-- 43_contextmap.md R262: the update of a lane advances the state of its current bit by the transition table and adapts the
map entries whose inputs were not neutral; no other byte, slot, checksum, map entry, MRU pair or lane changes. -/
def Obligations.LaneUpdateTrainsOneState : Prop :=
  ∀ (c : Cfg) (bpos : BitVec 3) (c0 : BitVec 9) (y : Bool) (l : Nat) (m : ContextMap),
    let h := (laneAt m l).cur
    let i := stateIndex bpos c0
    let st := slotByte (handleSlot m h) i
    let ri := if c.cmByteHist then (runInfo bpos c0 (handleSlot m (laneAt m l).h0)).1 else 0
    let j := st.toNat * 3 + ri
    let t := cmUpdate c bpos c0 y l m
    slotByte (handleSlot t h) i = bhNext c.bhTable st y ∧
    (∀ k, k < 7 → k ≠ i → slotByte (handleSlot t h) k = slotByte (handleSlot m h) k) ∧
    (handleSlot t h).chk = (handleSlot m h).chk ∧
    (∀ b k, k < 16 → (b ≠ h.bucket.toNat ∨ k ≠ h.slot.toNat) → slotAt t b k = slotAt m b k) ∧
    sm1At t l st.toNat = (if st = 0 then sm1At m l 0 else adapt16 (sm1At m l st.toNat) y c.smRate) ∧
    (∀ l' k, k < 256 → (l' ≠ l ∨ k ≠ st.toNat) → sm1At t l' k = sm1At m l' k) ∧
    sm2At t l j = (if c.cmByteHist = true ∧ (st ≠ 0 ∨ ri ≠ 0) then adapt16 (sm2At m l j) y c.smRate else sm2At m l j) ∧
    (∀ l' k, k < 768 → (l' ≠ l ∨ k ≠ j) → sm2At t l' k = sm2At m l' k) ∧
    (t.lanes = m.lanes ∧ t.mru = m.mru ∧ t.scale = m.scale)

/-- 43_contextmap.md R264: the run update of a lane's group-0 slot with the completed byte. The run count saturates at 255;
a new byte shifts the recent bytes; the states and the checksum are kept. -/
def Obligations.RunUpdateShiftsRecentBytes : Prop :=
  ∀ (byte : Byte) (l : Nat) (m : ContextMap),
    let h := (laneAt m l).h0
    let a := handleSlot m h
    let t := cmRunUpdate byte l m
    let z := handleSlot t h
    (a.b3 = 0 → z = { a with b3 := 1, b4 := byte }) ∧
    (a.b3 ≠ 0 → byte = a.b4 → z = { a with b3 := z.b3 } ∧ z.b3.toNat = min (a.b3.toNat + 1) 255) ∧
    (a.b3 ≠ 0 → byte ≠ a.b4 → z = { a with b3 := 1, b4 := byte, b5 := a.b4, b6 := a.b5 }) ∧
    (∀ b k, k < 16 → (b ≠ h.bucket.toNat ∨ k ≠ h.slot.toNat) → slotAt t b k = slotAt m b k) ∧
    t = { m with slots := t.slots }

/-- 43_contextmap.md R265, 44_mixer_apm.md R313, 45_dmc.md R363: each scale command writes its scale register with any
16-bit operand, in every mode, and nothing else. -/
def Obligations.ScaleCommandsWriteTheirRegister : Prop :=
  ∀ (imm : Half) (s : State),
    exec (.cmSetScale imm) s = .next { consume 1 s with cm := { s.cm with scale := imm } } ∧
    exec (.mxSetScale imm) s = .next { consume 1 s with mixer := { s.mixer with scale := imm } } ∧
    exec (.dmcSetScale imm) s = .next { consume 1 s with dmc := { s.dmc with scale := imm } }

/-! ## Mixer and APM -/

/-- 44_mixer_apm.md R301: MX_ADD in a session with room for it pushes its operand, sign-extended and not clamped; no other
field of the state changes. In IDLE it raises E_MODE, without room E_OVF. -/
def Obligations.MxAddPushesItsOperand : Prop :=
  (∀ (imm : Half) (s : State),
    (s.mode = .idle → exec (.mxAdd imm) s = .next (faulted .mode (.mxAdd imm) s)) ∧
    (s.mode ≠ .idle → s.mixer.n.toNat < s.mixer.count.toNat + 1 →
      exec (.mxAdd imm) s = .next (faulted .ovf (.mxAdd imm) s))) ∧
  ∀ (imm : Half) (s : State), s.mode ≠ .idle → s.mixer.count.toNat + 1 ≤ s.mixer.n.toNat →
    ∃ t, exec (.mxAdd imm) s = .next t ∧
      t = { consume 1 s with mixer := { s.mixer with count := t.mixer.count, inputs := t.mixer.inputs } } ∧
      t.mixer.count.toNat = s.mixer.count.toNat + 1 ∧ (inputAt t.mixer s.mixer.count.toNat).toInt = (imm.signExtend 32).toInt ∧
      (∀ k, k ≠ s.mixer.count.toNat → inputAt t.mixer k = inputAt s.mixer k)

/-- 44_mixer_apm.md R302, R310, R311, R312: the mixer's control commands, in every mode. Each writes its register alone when
its phase and range conditions hold, and raises E_PHASE or else E_RANGE when they do not. -/
def Obligations.MixerControlCommandsWriteTheirRegister : Prop :=
  ∀ (imm : Half) (bank : Byte) (s : State), s.cfg.wf = true →
    exec (.mxSelect bank imm) s =
      (if bank.toNat < s.cfg.mxNsel ∧ imm.toNat < s.cfg.mxKsel then
        .next { consume 1 s with mixer := { s.mixer with sel := s.mixer.sel.set bank.toNat imm } }
      else .next (faulted .range (.mxSelect bank imm) s)) ∧
    exec (.mxSetN imm) s =
      (if s.mixer.count ≠ 0 then .next (faulted .phase (.mxSetN imm) s)
      else if imm.toNat ≤ s.cfg.mxMaxN then .next { consume 1 s with mixer := { s.mixer with n := imm } }
      else .next (faulted .range (.mxSetN imm) s)) ∧
    exec (.mxSetActive imm) s =
      (if s.mixer.count ≠ 0 then .next (faulted .phase (.mxSetActive imm) s)
      else if 1 ≤ imm.toNat ∧ imm.toNat ≤ s.cfg.mxNsel then
        .next { consume 1 s with mixer := { s.mixer with active := imm.setWidth 4 } }
      else .next (faulted .range (.mxSetActive imm) s)) ∧
    (1 ≤ imm.toNat → imm.toNat ≤ s.cfg.mxNsel → ((imm.setWidth 4 : BitVec 4)).toNat = imm.toNat) ∧
    exec (.mxSetLr imm) s =
      (if imm.toNat ≤ 255 then .next { consume 1 s with mixer := { s.mixer with lr := imm.setWidth 8 } }
      else .next (faulted .range (.mxSetLr imm) s))

/-- 44_mixer_apm.md R314, R315, R316: the APM's control commands, in every mode. Each writes its register alone when its
operand is in range and raises E_RANGE when it is not. With APM_EN = 0 the APM is neither read nor trained. -/
def Obligations.ApmControlCommandsWriteTheirRegister : Prop :=
  (∀ (imm : Half) (s : State),
    exec (.apmSetCtx imm) s =
      (if imm.toNat < s.cfg.apmNctx then .next { consume 1 s with apm := { s.apm with ctx := imm } }
      else .next (faulted .range (.apmSetCtx imm) s)) ∧
    exec (.apmSetRate imm) s =
      (if 1 ≤ imm.toNat ∧ imm.toNat ≤ 15 then .next { consume 1 s with apm := { s.apm with rate := imm.setWidth 4 } }
      else .next (faulted .range (.apmSetRate imm) s)) ∧
    exec (.apmEnable imm) s =
      (if imm.toNat ≤ 1 then .next { consume 1 s with apm := { s.apm with enabled := decide (imm.toNat = 1) } }
      else .next (faulted .range (.apmEnable imm) s))) ∧
  (∀ (m : Mixer) (a b : Apm) (pr : Prediction) (y : Bool), a.enabled = false → b.enabled = false →
    predict m a = predict m b ∧ (predict m a).pFinal = (predict m a).pMix ∧ trainApm pr y a = a)

/-- 44_mixer_apm.md R303, R304, R305, 41_coder.md R200: what PREDICT gives. Each active bank's output is the exact dot
product of the inputs and its selected weights, scaled and clamped; one bank's output, or the second layer's blend of several,
is the stretched mix; with the APM off p_final is p_mix (ApmInterpolatesAndTrainsTheNearerEntry says what it is with the APM
on). Every probability lies in [1, 4094], and the stretched mix in [-2047, 2047]. -/
def Obligations.PredictionsStayInBounds : Prop :=
  ∀ (m : Mixer) (a : Apm),
    let pr := predict m a
    let dot (j : Nat) : Int :=
      Finset.sum (Finset.range m.n.toNat) fun k => (inputAt m k).toInt * (weightAt m j (selAt m j) k).toInt
    let s (j : Nat) : Int := max (-2047) (min 2047 (dot j / 2 ^ 16 * (m.scale.toNat : Int) / 2 ^ 8))
    (∀ j, (dot j).natAbs < 2 ^ 62) ∧
    pr.s = (List.range m.active.toNat).map s ∧ pr.p = (List.range m.active.toNat).map (fun j => squash (s j)) ∧
    (m.active = 1 → pr.sMix = s 0) ∧
    (1 < m.active.toNat → pr.sMix =
      max (-2047) (min 2047 ((Finset.sum (Finset.range m.active.toNat) fun j => s j * (blendAt m j).toInt) / 2 ^ 16))) ∧
    pr.pMix = squash pr.sMix ∧ (a.enabled = false → pr.pFinal = pr.pMix) ∧
    1 ≤ pr.pFinal ∧ pr.pFinal ≤ 4094 ∧ 1 ≤ pr.pMix ∧ pr.pMix ≤ 4094 ∧ -2047 ≤ pr.sMix ∧ pr.sMix ≤ 2047

/-- 44_mixer_apm.md R306, R307 with 40_pipeline.md R174: the mixer's training by the coded bit, from the outputs s_j, p_j and
p_mix of the prediction (PredictionsStayInBounds says what they are). Each weight of the selected vector of each active bank
moves by the rounded product of its input and the bank's clipped error, saturating; so does each active second-layer weight
when MX_ACTIVE > 1; MX_COUNT becomes 0; nothing else changes. -/
def Obligations.MixerTrainsTheSelectedWeights : Prop :=
  ∀ (m : Mixer) (a : Apm) (y : Bool),
    let pr := predict m a
    let t := trainMixer pr y m
    let err (p : Nat) : Int := max (-32767) (min 32767 (((if y then 4096 else 0) - (p : Int)) * (m.lr.toNat : Int)))
    let moved (w : Word) (x e : Int) : Int := max (-2 ^ 31) (min (2 ^ 31 - 1) (w.toInt + (x * e + 32768) / 2 ^ 16))
    (∀ j k, j < m.active.toNat → k < m.n.toNat →
      (weightAt t j (selAt m j) k).toInt =
        moved (weightAt m j (selAt m j) k) (inputAt m k).toInt (err (pr.p.getD j 0))) ∧
    (∀ j c k, c < 65536 → k < 65536 → (m.active.toNat ≤ j ∨ c ≠ selAt m j ∨ m.n.toNat ≤ k) →
      weightAt t j c k = weightAt m j c k) ∧
    (∀ j, 1 < m.active.toNat → j < m.active.toNat → j < m.blend.length →
      (blendAt t j).toInt = moved (blendAt m j) (pr.s.getD j 0) (err pr.pMix)) ∧
    (∀ j, (m.active.toNat ≤ 1 ∨ m.active.toNat ≤ j) → blendAt t j = blendAt m j) ∧
    t = { m with count := 0, weights := t.weights, blend := t.blend }

/-- 44_mixer_apm.md R308, R309 with 00_scope.md R25: with APM_EN = 1, p_final interpolates the two neighbouring entries of
the row APM_CTX and is clamped; training moves the nearer of the two, inside the row, toward the bit and nothing else. -/
def Obligations.ApmInterpolatesAndTrainsTheNearerEntry : Prop :=
  ∀ (m : Mixer) (a : Apm) (y : Bool), a.enabled = true →
    let pr := predict m a
    let u := (pr.sMix + 2048).toNat
    let lo := u / 128
    let w := u % 128
    let t := trainApm pr y a
    (1 ≤ u ∧ u ≤ 4095 ∧ lo ≤ 31 ∧ pr.bucket = lo + w / 64 ∧ pr.bucket ≤ 32) ∧
    pr.pFinal =
      max 1 (min 4094
        (((apmAt a a.ctx.toNat lo).toNat * (128 - w) + (apmAt a a.ctx.toNat (lo + 1)).toNat * w) / 2048)) ∧
    apmAt t a.ctx.toNat pr.bucket = adapt16 (apmAt a a.ctx.toNat pr.bucket) y a.rate.toNat ∧
    (∀ c k, k ≤ 32 → (c ≠ a.ctx.toNat ∨ k ≠ pr.bucket) → apmAt t c k = apmAt a c k) ∧
    t = { a with entries := t.entries }

/-- 10_state.md R57 (log 4: the values of unwritten entries are the model's free values): neither a prediction nor the
training reads an entry of MXIN at or above MX_N. -/
def Obligations.EntriesBeyondTheInputsAreNotRead : Prop :=
  ∀ (m : Mixer) (a : Apm) (y : Bool) (l : List Half),
    (∀ k, k < m.n.toNat → inputAt { m with inputs := l } k = inputAt m k) →
    predict { m with inputs := l } a = predict m a ∧
    trainMixer (predict m a) y { m with inputs := l } = { trainMixer (predict m a) y m with inputs := l }

/-! ## DMC forest -/

/-- 45_dmc.md R353, R354: DMC_MIX in a session with room for them pushes the ten instances' inputs, instance 0 first: the
scaled sum of the stretched count estimate and the stretched state-map estimate of the current node. No other entry and no
other field of the state changes. In IDLE it raises E_MODE, without room E_OVF. -/
def Obligations.DmcMixPushesEveryInstance : Prop :=
  (∀ s : State,
    (s.mode = .idle → exec .dmcMix s = .next (faulted .mode .dmcMix s)) ∧
    (s.mode ≠ .idle → s.mixer.n.toNat < s.mixer.count.toNat + 10 →
      exec .dmcMix s = .next (faulted .ovf .dmcMix s))) ∧
  ∀ s : State, s.mode ≠ .idle → s.dmc.insts.length = dmcN → s.mixer.count.toNat + 10 ≤ s.mixer.n.toNat →
    ∃ t, exec .dmcMix s = .next t ∧
      t = { consume 1 s with mixer := { s.mixer with count := t.mixer.count, inputs := t.mixer.inputs } } ∧
      t.mixer.count.toNat = s.mixer.count.toNat + 10 ∧
      (∀ k, (k < s.mixer.count.toNat ∨ s.mixer.count.toNat + 10 ≤ k) → inputAt t.mixer k = inputAt s.mixer k) ∧
      (∀ i, i < 10 →
        let d := instAt s.dmc i
        let nd := nodeAt d d.curr.toNat
        let p1 := if nd.c0.toNat + nd.c1.toNat = 0 then 2048
          else max 1 (min 4094 (nd.c1.toNat * 4096 / (nd.c0.toNat + nd.c1.toNat)))
        let p2 := max 1 (min 4094 ((smdAt d nd.st).toNat / 16))
        (inputAt t.mixer (s.mixer.count.toNat + i)).toInt =
          max (-32768) (min 32767 ((stretch p1 + stretch p2) * (s.dmc.scale.toNat : Int) / 256)))

/-- 45_dmc.md R356 to R360: the update of a sound instance by the coded bit. The current node's counts decay and count the
bit, its state advances, the state map adapts; a clone splits the target's counts and takes its links and state, or is skipped
and counted when the graph is full; the instance moves along the bit. No other node or map entry changes. -/
def Obligations.DmcUpdateCountsAndClones : Prop :=
  ∀ (c : Cfg) (i : Nat) (y : Bool) (d : DmcInst), c.wf = true → i < dmcN → InstInv c i d →
    let k := d.curr.toNat
    let nd := nodeAt d k
    let n := (if y then nd.c1 else nd.c0).toNat
    let t := (nodeNext nd y).toNat
    let tg := nodeAt d t
    let total := tg.c0.toNat + tg.c1.toNat
    let wants := d.thr.toNat < n ∧ n + d.thr.toNat < total
    let z := dmcUpdate c y i d
    let seen (v : Half) (b : Bool) : Half :=
      BitVec.ofNat 16 (min 65535 (v.toNat - v.toNat / 64 + (if b then 1024 else 0)))
    (smdAt z nd.st = adapt16 (smdAt d nd.st) y c.smRate ∧ ∀ x, x ≠ nd.st → smdAt z x = smdAt d x) ∧
    (wants → d.top.toNat < c.cap i →
      z.top.toNat = d.top.toNat + 1 ∧ z.curr.toNat = d.top.toNat ∧ z.extra = d.extra ∧
      z.thr.toNat = min (d.thr.toNat + 1) (c.thrCap i) ∧
      (nodeAt z d.top.toNat).c0.toNat = tg.c0.toNat * n / total ∧ (nodeAt z d.top.toNat).c1.toNat = tg.c1.toNat * n / total ∧
      (nodeAt z d.top.toNat).nx0 = tg.nx0 ∧ (nodeAt z d.top.toNat).nx1 = tg.nx1 ∧ (nodeAt z d.top.toNat).st = tg.st ∧
      (nodeAt z t).c0.toNat = tg.c0.toNat - tg.c0.toNat * n / total ∧
      (nodeAt z t).c1.toNat = tg.c1.toNat - tg.c1.toNat * n / total ∧
      (nodeAt z t).nx0 = tg.nx0 ∧ (nodeAt z t).nx1 = tg.nx1 ∧ (nodeAt z t).st = tg.st ∧
      nodeAt z k = { nd with
        c0 := seen nd.c0 (!y), c1 := seen nd.c1 y, st := bhNext c.bhTable nd.st y
        nx0 := if y then nd.nx0 else BitVec.ofNat 28 d.top.toNat
        nx1 := if y then BitVec.ofNat 28 d.top.toNat else nd.nx1 } ∧
      (∀ x, x ≠ k → x ≠ t → x ≠ d.top.toNat → nodeAt z x = nodeAt d x)) ∧
    ((¬ wants ∨ c.cap i ≤ d.top.toNat) →
      z.top = d.top ∧ z.thr = d.thr ∧ z.curr = nodeNext nd y ∧
      z.extra.toNat = (if wants then min (d.extra.toNat + n) (2 ^ 64 - 1) else d.extra.toNat) ∧
      nodeAt z k = { nd with c0 := seen nd.c0 (!y), c1 := seen nd.c1 y, st := bhNext c.bhTable nd.st y } ∧
      (∀ x, x ≠ k → nodeAt z x = nodeAt d x))

/-- 45_dmc.md R361, R362: at a byte boundary an instance that may be reset and is full starts again from the initial graph at
the root of the completed byte's tree, its state map kept; any other instance is unchanged. -/
def Obligations.DmcByteResetOfAFullInstance : Prop :=
  ∀ (c : Cfg) (byte : Byte) (i : Nat) (d : DmcInst),
    let z := dmcByteReset c byte i d
    (c.resettable i = true → c.cap i * 1024 < d.extra.toNat →
      z.top = 65280 ∧ z.curr.toNat = byte.toNat * 255 ∧ z.extra = 0 ∧ z.thr = BitVec.ofNat 32 (c.thrInit i) ∧
      (∀ n, nodeAt z n = nodeInit n) ∧ z.smd = d.smd) ∧
    ((c.resettable i = false ∨ d.extra.toNat ≤ c.cap i * 1024) → z = d)

/-! ## Numeric primitives -/

/-- 00_scope.md R21: squash interpolates the knots, 128 apart, and is clamped outside them; it is monotone, its values lie in
[1, 4094], and it takes the three values the rule names. -/
def Obligations.SquashIsMonotoneAndBounded : Prop :=
  (let knots : List Nat := [1, 2, 3, 6, 10, 16, 27, 45, 73, 120, 194, 310, 488, 747, 1101, 1546, 2047, 2549, 2994, 3348, 3607,
      3785, 3901, 3975, 4024, 4050, 4068, 4079, 4085, 4089, 4092, 4093, 4094]
   ∀ i w : Nat, i < 32 → w < 128 →
    squash (((i : Int) - 16) * 128 + w) = (knots.getD i 0 * (128 - w) + knots.getD (i + 1) 0 * w + 64) / 128) ∧
  (∀ d : Int, (d ≤ -2047 → squash d = squash (-2047)) ∧ (2047 ≤ d → squash d = squash 2047)) ∧
  (∀ d : Int, 1 ≤ squash d ∧ squash d ≤ 4094) ∧ (∀ d e : Int, d ≤ e → squash d ≤ squash e) ∧
  squash (-2047) = 1 ∧ squash 0 = 2047 ∧ squash 2047 = 4094

/-- 00_scope.md R22: stretch(p) is the least d in [-2047, 2047] that minimises |squash(d) - p|; the six values the rule
names. With R23: for p in [1, 4094] the minimum is at most 2. -/
def Obligations.StretchIsTheLeastBestInverse : Prop :=
  (stretch 0 = -2047 ∧ stretch 1 = -2047 ∧ stretch 2048 = 0 ∧ stretch 2047 = 0 ∧ stretch 4094 = 1984 ∧ stretch 4095 = 1984) ∧
  (∀ p : Nat, p ≤ 4095 →
    -2047 ≤ stretch p ∧ stretch p ≤ 2047 ∧
    ∀ d : Int, -2047 ≤ d → d ≤ 2047 →
      ((squash (stretch p) : Int) - p).natAbs ≤ ((squash d : Int) - p).natAbs ∧
      (d < stretch p → ((squash (stretch p) : Int) - p).natAbs < ((squash d : Int) - p).natAbs)) ∧
  (∀ p : Nat, 1 ≤ p → p ≤ 4094 → ((squash (stretch p) : Int) - p).natAbs ≤ 2)

/-- 00_scope.md R25: adaptation toward a 1 adds floor((65535 - e) / 2^r), toward a 0 subtracts ceil(e / 2^r); the result
stays in u16 without wrapping. -/
def Obligations.AdaptationMovesTowardTheBit : Prop :=
  ∀ (e : Half) (r : Nat), 1 ≤ r → r ≤ 15 →
    (adapt16 e true r).toNat = e.toNat + (65535 - e.toNat) / 2 ^ r ∧
    (adapt16 e false r).toNat = e.toNat - (e.toNat + (2 ^ r - 1)) / 2 ^ r

/-! ## Invariants -/

/-- Every invariant holds after hardware reset of a core built from an accepted configuration. One of them, the canonical form
of the tables, is the model's choice (log 5). -/
def Obligations.InvariantsHoldAtReset : Prop := ∀ c : Cfg, c.wf = true → CoreInv (State.resetWith c)

/-- The model's canonical form of the internal tables (log 5) is kept by every step, from every state that has it. -/
def Obligations.StepKeepsTablesCanonical : Prop :=
  ∀ s t : State, Memory.wf s = true → step s = .next t → Memory.wf t = true

/-- 10_state.md R46, 41_coder.md R205: 2^BPOS <= C0 < 2^(BPOS+1), X1 < X2 and different top bytes are kept by every step. -/
def Obligations.StepKeepsPositionAndInterval : Prop :=
  ∀ s t : State, PositionInv s → step s = .next t → PositionInv t

/-- 10_state.md R49, R50, R57: the control registers stay legal, MX_COUNT <= MX_N <= MX_MAXN, and MXIN is written below
MX_COUNT; the register files keep their sizes. -/
def Obligations.StepKeepsControlRegistersLegal : Prop :=
  ∀ s t : State, ShapeInv s → ControlInv s → step s = .next t → ShapeInv t ∧ ControlInv t

/-- 43_contextmap.md R257.1, R256, 20_memory.md R101: the checksums of a bucket stay distinct but for 0, the MRU pairs and
the lane handles stay inside the table. -/
def Obligations.StepKeepsContextMapSound : Prop :=
  ∀ s t : State, ContextInv s → step s = .next t → ContextInv t

/-- 45_dmc.md R364: the invariants of every instance are kept by every step. -/
def Obligations.StepKeepsForestSound : Prop :=
  ∀ s t : State, ForestInv s → step s = .next t → ForestInv t

/-- Every state a core reaches from hardware reset, by its own steps and any actions of the host, meets every invariant and
keeps its configuration. One of the invariants, the canonical form of the tables, is the model's choice (log 5). -/
def Obligations.EveryReachableStateIsSound : Prop :=
  ∀ (c : Cfg) (s : State), c.wf = true → Reachable c s → CoreInv s ∧ s.cfg = c

/-! ## Assembler -/

/-- 30_encoding.md R140: in ENC, `ENCB y` with a bit runs without a fault exactly when the inputs already pushed, those of
CM_MIX and those of DMC_MIX make up MX_N. -/
def Obligations.EncbRunsExactlyWhenTheCountFits : Prop :=
  ∀ (s : State) (y : Half), s.mode = .enc → s.halt = false → y.toNat ≤ 1 → s.dmc.insts.length = dmcN →
    (runAll (expandLine (.encb y)) s ≠ none ↔
      s.mixer.count.toNat + s.cfg.cmLanes * s.cfg.laneK + 10 = s.mixer.n.toNat)

/-! ## Hashing -/

/-- 43_contextmap.md R254: HASH in whole numbers, for every CM_LOG2B that 00_scope.md R5 accepts, with the bucket inside the
table; the six worked values; and LOOKUP, which hashes the lane's fingerprint with C0 and finds the slot. -/
def Obligations.HashFollowsItsFormula : Prop :=
  (∀ (log2b : Nat) (fp : Long) (l : Nat) (c0 : BitVec 9), 1 ≤ log2b → log2b ≤ 28 →
    let key := fp.toNat ^^^ ((l + 1) * 0x9E3779B97F4A7C15 % 2 ^ 64) ^^^ (c0.toNat * 0xC2B2AE3D27D4EB4F % 2 ^ 64)
    let g := key * 0xD6E8FEB86659FD93 % 2 ^ 64
    let h1 := g ^^^ (g / 2 ^ 32)
    let h2 := (h1 ^^^ (h1 / 2 ^ 29)) * 0xBF58476D1CE4E5B9 % 2 ^ 64
    (hash log2b fp l c0).1.toNat = h1 / 2 ^ (64 - log2b) ∧ (hash log2b fp l c0).2.toNat = h2 / 2 ^ 48 ∧
      (hash log2b fp l c0).1.toNat < 2 ^ log2b) ∧
  (hash 10 0 0 1 = (0x203, 0xC7D1) ∧ hash 10 0x41 0 1 = (0x276, 0x4789) ∧ hash 10 0x41 1 1 = (0x22E, 0xC8DC) ∧
    hash 10 0x41 0 5 = (0x293, 0xB18E) ∧ hash 11 0 0 1 = (0x407, 0xC7D1) ∧
    hash 20 0x0123456789ABCDEF 3 37 = (0x645F5, 0x647B)) ∧
  ∀ (c : Cfg) (c0 : BitVec 9) (l : Nat) (m : ContextMap), c.wf = true →
    let h := hash c.cmLog2b (laneAt m l).fp l c0
    let r := find c.cmSlots h.1.toNat h.2 m
    (lookup c c0 l m).1.bucket = h.1 ∧ (lookup c c0 l m).1.slot.toNat = r.1 ∧ (lookup c c0 l m).2 = r.2
end

