-- ==== Sys2Proof/Laws/State.lean ====
section
/-! SUPPORT. One lemma per field for each update of State and of the units' records, true by definition, so that no proof
unfolds a record update. -/

namespace Sys2Proof.Machine

/-! ### consume -/

@[simp] theorem consume_cfg (s : State) (n : Nat) : (consume n s).cfg = s.cfg := rfl
@[simp] theorem consume_mode (s : State) (n : Nat) : (consume n s).mode = s.mode := rfl
@[simp] theorem consume_halt (s : State) (n : Nat) : (consume n s).halt = s.halt := rfl
@[simp] theorem consume_errCode (s : State) (n : Nat) : (consume n s).errCode = s.errCode := rfl
@[simp] theorem consume_errCmd (s : State) (n : Nat) : (consume n s).errCmd = s.errCmd := rfl
@[simp] theorem consume_bpos (s : State) (n : Nat) : (consume n s).bpos = s.bpos := rfl
@[simp] theorem consume_c0 (s : State) (n : Nat) : (consume n s).c0 = s.c0 := rfl
@[simp] theorem consume_c1 (s : State) (n : Nat) : (consume n s).c1 = s.c1 := rfl
@[simp] theorem consume_bitCnt (s : State) (n : Nat) : (consume n s).bitCnt = s.bitCnt := rfl
@[simp] theorem consume_outCnt (s : State) (n : Nat) : (consume n s).outCnt = s.outCnt := rfl
@[simp] theorem consume_inCnt (s : State) (n : Nat) : (consume n s).inCnt = s.inCnt := rfl
@[simp] theorem consume_coder (s : State) (n : Nat) : (consume n s).coder = s.coder := rfl
@[simp] theorem consume_mixer (s : State) (n : Nat) : (consume n s).mixer = s.mixer := rfl
@[simp] theorem consume_apm (s : State) (n : Nat) : (consume n s).apm = s.apm := rfl
@[simp] theorem consume_cm (s : State) (n : Nat) : (consume n s).cm = s.cm := rfl
@[simp] theorem consume_dmc (s : State) (n : Nat) : (consume n s).dmc = s.dmc := rfl
@[simp] theorem consume_ports (s : State) (n : Nat) : (consume n s).ports = { s.ports with cmd := s.ports.cmd.drop n } := rfl

/-! ### result -/

@[simp] theorem result_cfg (s : State) (w : Word) : (result w s).cfg = s.cfg := rfl
@[simp] theorem result_mode (s : State) (w : Word) : (result w s).mode = s.mode := rfl
@[simp] theorem result_halt (s : State) (w : Word) : (result w s).halt = s.halt := rfl
@[simp] theorem result_errCode (s : State) (w : Word) : (result w s).errCode = s.errCode := rfl
@[simp] theorem result_errCmd (s : State) (w : Word) : (result w s).errCmd = s.errCmd := rfl
@[simp] theorem result_bpos (s : State) (w : Word) : (result w s).bpos = s.bpos := rfl
@[simp] theorem result_c0 (s : State) (w : Word) : (result w s).c0 = s.c0 := rfl
@[simp] theorem result_c1 (s : State) (w : Word) : (result w s).c1 = s.c1 := rfl
@[simp] theorem result_bitCnt (s : State) (w : Word) : (result w s).bitCnt = s.bitCnt := rfl
@[simp] theorem result_outCnt (s : State) (w : Word) : (result w s).outCnt = s.outCnt := rfl
@[simp] theorem result_inCnt (s : State) (w : Word) : (result w s).inCnt = s.inCnt := rfl
@[simp] theorem result_coder (s : State) (w : Word) : (result w s).coder = s.coder := rfl
@[simp] theorem result_mixer (s : State) (w : Word) : (result w s).mixer = s.mixer := rfl
@[simp] theorem result_apm (s : State) (w : Word) : (result w s).apm = s.apm := rfl
@[simp] theorem result_cm (s : State) (w : Word) : (result w s).cm = s.cm := rfl
@[simp] theorem result_dmc (s : State) (w : Word) : (result w s).dmc = s.dmc := rfl
@[simp] theorem result_ports (s : State) (w : Word) : (result w s).ports = { s.ports with result := s.ports.result ++ [w] } := rfl

/-! ### outByte -/

@[simp] theorem outByte_cfg (s : State) (b : Byte) : (outByte b s).cfg = s.cfg := rfl
@[simp] theorem outByte_mode (s : State) (b : Byte) : (outByte b s).mode = s.mode := rfl
@[simp] theorem outByte_halt (s : State) (b : Byte) : (outByte b s).halt = s.halt := rfl
@[simp] theorem outByte_errCode (s : State) (b : Byte) : (outByte b s).errCode = s.errCode := rfl
@[simp] theorem outByte_errCmd (s : State) (b : Byte) : (outByte b s).errCmd = s.errCmd := rfl
@[simp] theorem outByte_bpos (s : State) (b : Byte) : (outByte b s).bpos = s.bpos := rfl
@[simp] theorem outByte_c0 (s : State) (b : Byte) : (outByte b s).c0 = s.c0 := rfl
@[simp] theorem outByte_c1 (s : State) (b : Byte) : (outByte b s).c1 = s.c1 := rfl
@[simp] theorem outByte_bitCnt (s : State) (b : Byte) : (outByte b s).bitCnt = s.bitCnt := rfl
@[simp] theorem outByte_outCnt (s : State) (b : Byte) : (outByte b s).outCnt = s.outCnt + 1 := rfl
@[simp] theorem outByte_inCnt (s : State) (b : Byte) : (outByte b s).inCnt = s.inCnt := rfl
@[simp] theorem outByte_coder (s : State) (b : Byte) : (outByte b s).coder = s.coder := rfl
@[simp] theorem outByte_mixer (s : State) (b : Byte) : (outByte b s).mixer = s.mixer := rfl
@[simp] theorem outByte_apm (s : State) (b : Byte) : (outByte b s).apm = s.apm := rfl
@[simp] theorem outByte_cm (s : State) (b : Byte) : (outByte b s).cm = s.cm := rfl
@[simp] theorem outByte_dmc (s : State) (b : Byte) : (outByte b s).dmc = s.dmc := rfl
@[simp] theorem outByte_ports (s : State) (b : Byte) : (outByte b s).ports = { s.ports with archOut := s.ports.archOut ++ [b] } := rfl

/-! ### takeFault -/

@[simp] theorem takeFault_cfg (s : State) (c : ErrCode) (h : Word) : (takeFault c h s).cfg = s.cfg := rfl
@[simp] theorem takeFault_mode (s : State) (c : ErrCode) (h : Word) : (takeFault c h s).mode = s.mode := rfl
@[simp] theorem takeFault_halt (s : State) (c : ErrCode) (h : Word) : (takeFault c h s).halt = true := rfl
@[simp] theorem takeFault_errCode (s : State) (c : ErrCode) (h : Word) : (takeFault c h s).errCode = c := rfl
@[simp] theorem takeFault_errCmd (s : State) (c : ErrCode) (h : Word) : (takeFault c h s).errCmd = h := rfl
@[simp] theorem takeFault_bpos (s : State) (c : ErrCode) (h : Word) : (takeFault c h s).bpos = s.bpos := rfl
@[simp] theorem takeFault_c0 (s : State) (c : ErrCode) (h : Word) : (takeFault c h s).c0 = s.c0 := rfl
@[simp] theorem takeFault_c1 (s : State) (c : ErrCode) (h : Word) : (takeFault c h s).c1 = s.c1 := rfl
@[simp] theorem takeFault_bitCnt (s : State) (c : ErrCode) (h : Word) : (takeFault c h s).bitCnt = s.bitCnt := rfl
@[simp] theorem takeFault_outCnt (s : State) (c : ErrCode) (h : Word) : (takeFault c h s).outCnt = s.outCnt := rfl
@[simp] theorem takeFault_inCnt (s : State) (c : ErrCode) (h : Word) : (takeFault c h s).inCnt = s.inCnt := rfl
@[simp] theorem takeFault_coder (s : State) (c : ErrCode) (h : Word) : (takeFault c h s).coder = s.coder := rfl
@[simp] theorem takeFault_mixer (s : State) (c : ErrCode) (h : Word) : (takeFault c h s).mixer = s.mixer := rfl
@[simp] theorem takeFault_apm (s : State) (c : ErrCode) (h : Word) : (takeFault c h s).apm = s.apm := rfl
@[simp] theorem takeFault_cm (s : State) (c : ErrCode) (h : Word) : (takeFault c h s).cm = s.cm := rfl
@[simp] theorem takeFault_dmc (s : State) (c : ErrCode) (h : Word) : (takeFault c h s).dmc = s.dmc := rfl
@[simp] theorem takeFault_ports (s : State) (c : ErrCode) (h : Word) : (takeFault c h s).ports = s.ports := rfl

/-! ### setBounds -/

@[simp] theorem setBounds_cfg (s : State) (a b : Word) : (setBounds a b s).cfg = s.cfg := rfl
@[simp] theorem setBounds_mode (s : State) (a b : Word) : (setBounds a b s).mode = s.mode := rfl
@[simp] theorem setBounds_halt (s : State) (a b : Word) : (setBounds a b s).halt = s.halt := rfl
@[simp] theorem setBounds_errCode (s : State) (a b : Word) : (setBounds a b s).errCode = s.errCode := rfl
@[simp] theorem setBounds_errCmd (s : State) (a b : Word) : (setBounds a b s).errCmd = s.errCmd := rfl
@[simp] theorem setBounds_bpos (s : State) (a b : Word) : (setBounds a b s).bpos = s.bpos := rfl
@[simp] theorem setBounds_c0 (s : State) (a b : Word) : (setBounds a b s).c0 = s.c0 := rfl
@[simp] theorem setBounds_c1 (s : State) (a b : Word) : (setBounds a b s).c1 = s.c1 := rfl
@[simp] theorem setBounds_bitCnt (s : State) (a b : Word) : (setBounds a b s).bitCnt = s.bitCnt := rfl
@[simp] theorem setBounds_outCnt (s : State) (a b : Word) : (setBounds a b s).outCnt = s.outCnt := rfl
@[simp] theorem setBounds_inCnt (s : State) (a b : Word) : (setBounds a b s).inCnt = s.inCnt := rfl
@[simp] theorem setBounds_coder (s : State) (a b : Word) : (setBounds a b s).coder = { s.coder with x1 := a, x2 := b } := rfl
@[simp] theorem setBounds_mixer (s : State) (a b : Word) : (setBounds a b s).mixer = s.mixer := rfl
@[simp] theorem setBounds_apm (s : State) (a b : Word) : (setBounds a b s).apm = s.apm := rfl
@[simp] theorem setBounds_cm (s : State) (a b : Word) : (setBounds a b s).cm = s.cm := rfl
@[simp] theorem setBounds_dmc (s : State) (a b : Word) : (setBounds a b s).dmc = s.dmc := rfl
@[simp] theorem setBounds_ports (s : State) (a b : Word) : (setBounds a b s).ports = s.ports := rfl

/-! ### setLastP -/

@[simp] theorem setLastP_cfg (s : State) (pr : Prediction) : (setLastP pr s).cfg = s.cfg := rfl
@[simp] theorem setLastP_mode (s : State) (pr : Prediction) : (setLastP pr s).mode = s.mode := rfl
@[simp] theorem setLastP_halt (s : State) (pr : Prediction) : (setLastP pr s).halt = s.halt := rfl
@[simp] theorem setLastP_errCode (s : State) (pr : Prediction) : (setLastP pr s).errCode = s.errCode := rfl
@[simp] theorem setLastP_errCmd (s : State) (pr : Prediction) : (setLastP pr s).errCmd = s.errCmd := rfl
@[simp] theorem setLastP_bpos (s : State) (pr : Prediction) : (setLastP pr s).bpos = s.bpos := rfl
@[simp] theorem setLastP_c0 (s : State) (pr : Prediction) : (setLastP pr s).c0 = s.c0 := rfl
@[simp] theorem setLastP_c1 (s : State) (pr : Prediction) : (setLastP pr s).c1 = s.c1 := rfl
@[simp] theorem setLastP_bitCnt (s : State) (pr : Prediction) : (setLastP pr s).bitCnt = s.bitCnt := rfl
@[simp] theorem setLastP_outCnt (s : State) (pr : Prediction) : (setLastP pr s).outCnt = s.outCnt := rfl
@[simp] theorem setLastP_inCnt (s : State) (pr : Prediction) : (setLastP pr s).inCnt = s.inCnt := rfl
@[simp] theorem setLastP_coder (s : State) (pr : Prediction) : (setLastP pr s).coder = { s.coder with lastP := BitVec.ofNat 12 pr.pFinal } := rfl
@[simp] theorem setLastP_mixer (s : State) (pr : Prediction) : (setLastP pr s).mixer = s.mixer := rfl
@[simp] theorem setLastP_apm (s : State) (pr : Prediction) : (setLastP pr s).apm = s.apm := rfl
@[simp] theorem setLastP_cm (s : State) (pr : Prediction) : (setLastP pr s).cm = s.cm := rfl
@[simp] theorem setLastP_dmc (s : State) (pr : Prediction) : (setLastP pr s).dmc = s.dmc := rfl
@[simp] theorem setLastP_ports (s : State) (pr : Prediction) : (setLastP pr s).ports = s.ports := rfl

/-! ### update -/

@[simp] theorem update_cfg (s : State) (pr : Prediction) (y : Bool) : (update pr y s).cfg = s.cfg := rfl
@[simp] theorem update_mode (s : State) (pr : Prediction) (y : Bool) : (update pr y s).mode = s.mode := rfl
@[simp] theorem update_halt (s : State) (pr : Prediction) (y : Bool) : (update pr y s).halt = s.halt := rfl
@[simp] theorem update_errCode (s : State) (pr : Prediction) (y : Bool) : (update pr y s).errCode = s.errCode := rfl
@[simp] theorem update_errCmd (s : State) (pr : Prediction) (y : Bool) : (update pr y s).errCmd = s.errCmd := rfl
@[simp] theorem update_bpos (s : State) (pr : Prediction) (y : Bool) : (update pr y s).bpos = s.bpos := rfl
@[simp] theorem update_c0 (s : State) (pr : Prediction) (y : Bool) : (update pr y s).c0 = s.c0 := rfl
@[simp] theorem update_c1 (s : State) (pr : Prediction) (y : Bool) : (update pr y s).c1 = s.c1 := rfl
@[simp] theorem update_bitCnt (s : State) (pr : Prediction) (y : Bool) : (update pr y s).bitCnt = s.bitCnt := rfl
@[simp] theorem update_outCnt (s : State) (pr : Prediction) (y : Bool) : (update pr y s).outCnt = s.outCnt := rfl
@[simp] theorem update_inCnt (s : State) (pr : Prediction) (y : Bool) : (update pr y s).inCnt = s.inCnt := rfl
@[simp] theorem update_coder (s : State) (pr : Prediction) (y : Bool) : (update pr y s).coder = s.coder := rfl
@[simp] theorem update_mixer (s : State) (pr : Prediction) (y : Bool) : (update pr y s).mixer = trainMixer pr y s.mixer := rfl
@[simp] theorem update_apm (s : State) (pr : Prediction) (y : Bool) : (update pr y s).apm = trainApm pr y s.apm := rfl
@[simp] theorem update_cm (s : State) (pr : Prediction) (y : Bool) : (update pr y s).cm = cmUpdateAll s.cfg s.bpos s.c0 y s.cm := rfl
@[simp] theorem update_dmc (s : State) (pr : Prediction) (y : Bool) : (update pr y s).dmc = dmcUpdateAll s.cfg y s.dmc := rfl
@[simp] theorem update_ports (s : State) (pr : Prediction) (y : Bool) : (update pr y s).ports = s.ports := rfl

/-! ### byteBoundary -/

@[simp] theorem byteBoundary_cfg (s : State) (c : Byte) : (byteBoundary c s).cfg = s.cfg := rfl
@[simp] theorem byteBoundary_mode (s : State) (c : Byte) : (byteBoundary c s).mode = s.mode := rfl
@[simp] theorem byteBoundary_halt (s : State) (c : Byte) : (byteBoundary c s).halt = s.halt := rfl
@[simp] theorem byteBoundary_errCode (s : State) (c : Byte) : (byteBoundary c s).errCode = s.errCode := rfl
@[simp] theorem byteBoundary_errCmd (s : State) (c : Byte) : (byteBoundary c s).errCmd = s.errCmd := rfl
@[simp] theorem byteBoundary_bpos (s : State) (c : Byte) : (byteBoundary c s).bpos = 0 := rfl
@[simp] theorem byteBoundary_c0 (s : State) (c : Byte) : (byteBoundary c s).c0 = 1 := rfl
@[simp] theorem byteBoundary_c1 (s : State) (c : Byte) : (byteBoundary c s).c1 = c := rfl
@[simp] theorem byteBoundary_bitCnt (s : State) (c : Byte) : (byteBoundary c s).bitCnt = s.bitCnt := rfl
@[simp] theorem byteBoundary_outCnt (s : State) (c : Byte) : (byteBoundary c s).outCnt = s.outCnt := rfl
@[simp] theorem byteBoundary_inCnt (s : State) (c : Byte) : (byteBoundary c s).inCnt = s.inCnt := rfl
@[simp] theorem byteBoundary_coder (s : State) (c : Byte) : (byteBoundary c s).coder = s.coder := rfl
@[simp] theorem byteBoundary_mixer (s : State) (c : Byte) : (byteBoundary c s).mixer = s.mixer := rfl
@[simp] theorem byteBoundary_apm (s : State) (c : Byte) : (byteBoundary c s).apm = s.apm := rfl
@[simp] theorem byteBoundary_cm (s : State) (c : Byte) : (byteBoundary c s).cm = cmBoundary s.cfg c s.cm := rfl
@[simp] theorem byteBoundary_dmc (s : State) (c : Byte) : (byteBoundary c s).dmc = dmcBoundary s.cfg c s.dmc := rfl
@[simp] theorem byteBoundary_ports (s : State) (c : Byte) : (byteBoundary c s).ports = s.ports := rfl

/-! ### modelInit -/

@[simp] theorem modelInit_cfg (s : State) : (modelInit s).cfg = s.cfg := rfl
@[simp] theorem modelInit_mode (s : State) : (modelInit s).mode = s.mode := rfl
@[simp] theorem modelInit_halt (s : State) : (modelInit s).halt = s.halt := rfl
@[simp] theorem modelInit_errCode (s : State) : (modelInit s).errCode = s.errCode := rfl
@[simp] theorem modelInit_errCmd (s : State) : (modelInit s).errCmd = s.errCmd := rfl
@[simp] theorem modelInit_bpos (s : State) : (modelInit s).bpos = 0 := rfl
@[simp] theorem modelInit_c0 (s : State) : (modelInit s).c0 = 1 := rfl
@[simp] theorem modelInit_c1 (s : State) : (modelInit s).c1 = 0 := rfl
@[simp] theorem modelInit_bitCnt (s : State) : (modelInit s).bitCnt = 0 := rfl
@[simp] theorem modelInit_outCnt (s : State) : (modelInit s).outCnt = 0 := rfl
@[simp] theorem modelInit_inCnt (s : State) : (modelInit s).inCnt = 0 := rfl
@[simp] theorem modelInit_coder (s : State) : (modelInit s).coder = freshCoder := rfl
@[simp] theorem modelInit_mixer (s : State) : (modelInit s).mixer = freshMixer s.cfg s.mixer := rfl
@[simp] theorem modelInit_apm (s : State) : (modelInit s).apm = freshApm s.apm := rfl
@[simp] theorem modelInit_cm (s : State) : (modelInit s).cm = freshCm s.cfg s.cm := rfl
@[simp] theorem modelInit_dmc (s : State) : (modelInit s).dmc = freshForest s.cfg s.dmc := rfl
@[simp] theorem modelInit_ports (s : State) : (modelInit s).ports = s.ports := rfl

/-! ### hostWriteCommand -/

@[simp] theorem hostWriteCommand_cfg (s : State) (w : Word) : (hostWriteCommand w s).cfg = s.cfg := rfl
@[simp] theorem hostWriteCommand_mode (s : State) (w : Word) : (hostWriteCommand w s).mode = s.mode := rfl
@[simp] theorem hostWriteCommand_halt (s : State) (w : Word) : (hostWriteCommand w s).halt = s.halt := rfl
@[simp] theorem hostWriteCommand_errCode (s : State) (w : Word) : (hostWriteCommand w s).errCode = s.errCode := rfl
@[simp] theorem hostWriteCommand_errCmd (s : State) (w : Word) : (hostWriteCommand w s).errCmd = s.errCmd := rfl
@[simp] theorem hostWriteCommand_bpos (s : State) (w : Word) : (hostWriteCommand w s).bpos = s.bpos := rfl
@[simp] theorem hostWriteCommand_c0 (s : State) (w : Word) : (hostWriteCommand w s).c0 = s.c0 := rfl
@[simp] theorem hostWriteCommand_c1 (s : State) (w : Word) : (hostWriteCommand w s).c1 = s.c1 := rfl
@[simp] theorem hostWriteCommand_bitCnt (s : State) (w : Word) : (hostWriteCommand w s).bitCnt = s.bitCnt := rfl
@[simp] theorem hostWriteCommand_outCnt (s : State) (w : Word) : (hostWriteCommand w s).outCnt = s.outCnt := rfl
@[simp] theorem hostWriteCommand_inCnt (s : State) (w : Word) : (hostWriteCommand w s).inCnt = s.inCnt := rfl
@[simp] theorem hostWriteCommand_coder (s : State) (w : Word) : (hostWriteCommand w s).coder = s.coder := rfl
@[simp] theorem hostWriteCommand_mixer (s : State) (w : Word) : (hostWriteCommand w s).mixer = s.mixer := rfl
@[simp] theorem hostWriteCommand_apm (s : State) (w : Word) : (hostWriteCommand w s).apm = s.apm := rfl
@[simp] theorem hostWriteCommand_cm (s : State) (w : Word) : (hostWriteCommand w s).cm = s.cm := rfl
@[simp] theorem hostWriteCommand_dmc (s : State) (w : Word) : (hostWriteCommand w s).dmc = s.dmc := rfl
@[simp] theorem hostWriteCommand_ports (s : State) (w : Word) : (hostWriteCommand w s).ports = { s.ports with cmd := s.ports.cmd ++ [w] } := rfl

/-! ### hostRaiseEos -/

@[simp] theorem hostRaiseEos_cfg (s : State) : (hostRaiseEos s).cfg = s.cfg := rfl
@[simp] theorem hostRaiseEos_mode (s : State) : (hostRaiseEos s).mode = s.mode := rfl
@[simp] theorem hostRaiseEos_halt (s : State) : (hostRaiseEos s).halt = s.halt := rfl
@[simp] theorem hostRaiseEos_errCode (s : State) : (hostRaiseEos s).errCode = s.errCode := rfl
@[simp] theorem hostRaiseEos_errCmd (s : State) : (hostRaiseEos s).errCmd = s.errCmd := rfl
@[simp] theorem hostRaiseEos_bpos (s : State) : (hostRaiseEos s).bpos = s.bpos := rfl
@[simp] theorem hostRaiseEos_c0 (s : State) : (hostRaiseEos s).c0 = s.c0 := rfl
@[simp] theorem hostRaiseEos_c1 (s : State) : (hostRaiseEos s).c1 = s.c1 := rfl
@[simp] theorem hostRaiseEos_bitCnt (s : State) : (hostRaiseEos s).bitCnt = s.bitCnt := rfl
@[simp] theorem hostRaiseEos_outCnt (s : State) : (hostRaiseEos s).outCnt = s.outCnt := rfl
@[simp] theorem hostRaiseEos_inCnt (s : State) : (hostRaiseEos s).inCnt = s.inCnt := rfl
@[simp] theorem hostRaiseEos_coder (s : State) : (hostRaiseEos s).coder = s.coder := rfl
@[simp] theorem hostRaiseEos_mixer (s : State) : (hostRaiseEos s).mixer = s.mixer := rfl
@[simp] theorem hostRaiseEos_apm (s : State) : (hostRaiseEos s).apm = s.apm := rfl
@[simp] theorem hostRaiseEos_cm (s : State) : (hostRaiseEos s).cm = s.cm := rfl
@[simp] theorem hostRaiseEos_dmc (s : State) : (hostRaiseEos s).dmc = s.dmc := rfl
@[simp] theorem hostRaiseEos_ports (s : State) : (hostRaiseEos s).ports = { s.ports with eos := true } := rfl

/-! ### withFetchWord -/

@[simp] theorem withFetchWord_cfg (s : State) (nbits w : Nat) : (s.withFetchWord nbits w).cfg = s.cfg := rfl
@[simp] theorem withFetchWord_mode (s : State) (nbits w : Nat) : (s.withFetchWord nbits w).mode = s.mode := rfl
@[simp] theorem withFetchWord_halt (s : State) (nbits w : Nat) : (s.withFetchWord nbits w).halt = false := rfl
@[simp] theorem withFetchWord_errCode (s : State) (nbits w : Nat) : (s.withFetchWord nbits w).errCode = s.errCode := rfl
@[simp] theorem withFetchWord_errCmd (s : State) (nbits w : Nat) : (s.withFetchWord nbits w).errCmd = s.errCmd := rfl
@[simp] theorem withFetchWord_bpos (s : State) (nbits w : Nat) : (s.withFetchWord nbits w).bpos = s.bpos := rfl
@[simp] theorem withFetchWord_c0 (s : State) (nbits w : Nat) : (s.withFetchWord nbits w).c0 = s.c0 := rfl
@[simp] theorem withFetchWord_c1 (s : State) (nbits w : Nat) : (s.withFetchWord nbits w).c1 = s.c1 := rfl
@[simp] theorem withFetchWord_bitCnt (s : State) (nbits w : Nat) : (s.withFetchWord nbits w).bitCnt = s.bitCnt := rfl
@[simp] theorem withFetchWord_outCnt (s : State) (nbits w : Nat) : (s.withFetchWord nbits w).outCnt = s.outCnt := rfl
@[simp] theorem withFetchWord_inCnt (s : State) (nbits w : Nat) : (s.withFetchWord nbits w).inCnt = s.inCnt := rfl
@[simp] theorem withFetchWord_coder (s : State) (nbits w : Nat) : (s.withFetchWord nbits w).coder = s.coder := rfl
@[simp] theorem withFetchWord_mixer (s : State) (nbits w : Nat) : (s.withFetchWord nbits w).mixer = s.mixer := rfl
@[simp] theorem withFetchWord_apm (s : State) (nbits w : Nat) : (s.withFetchWord nbits w).apm = s.apm := rfl
@[simp] theorem withFetchWord_cm (s : State) (nbits w : Nat) : (s.withFetchWord nbits w).cm = s.cm := rfl
@[simp] theorem withFetchWord_dmc (s : State) (nbits w : Nat) : (s.withFetchWord nbits w).dmc = s.dmc := rfl
@[simp] theorem withFetchWord_ports (s : State) (nbits w : Nat) : (s.withFetchWord nbits w).ports = { s.ports with cmd := tableWords nbits w ++ s.ports.cmd } := rfl

/-! ### setWeight -/

@[simp] theorem setWeight_n (m : Mixer) (j c k : Nat) (v : Word) : (setWeight m j c k v).n = m.n := rfl
@[simp] theorem setWeight_count (m : Mixer) (j c k : Nat) (v : Word) : (setWeight m j c k v).count = m.count := rfl
@[simp] theorem setWeight_active (m : Mixer) (j c k : Nat) (v : Word) : (setWeight m j c k v).active = m.active := rfl
@[simp] theorem setWeight_lr (m : Mixer) (j c k : Nat) (v : Word) : (setWeight m j c k v).lr = m.lr := rfl
@[simp] theorem setWeight_scale (m : Mixer) (j c k : Nat) (v : Word) : (setWeight m j c k v).scale = m.scale := rfl
@[simp] theorem setWeight_sel (m : Mixer) (j c k : Nat) (v : Word) : (setWeight m j c k v).sel = m.sel := rfl
@[simp] theorem setWeight_inputs (m : Mixer) (j c k : Nat) (v : Word) : (setWeight m j c k v).inputs = m.inputs := rfl
@[simp] theorem setWeight_weights (m : Mixer) (j c k : Nat) (v : Word) : (setWeight m j c k v).weights = tableSet weightInit m.weights (weightKey j c k) v := rfl
@[simp] theorem setWeight_blend (m : Mixer) (j c k : Nat) (v : Word) : (setWeight m j c k v).blend = m.blend := rfl

/-! ### setInput -/

@[simp] theorem setInput_n (m : Mixer) (k : Nat) (v : Half) : (setInput m k v).n = m.n := rfl
@[simp] theorem setInput_count (m : Mixer) (k : Nat) (v : Half) : (setInput m k v).count = m.count := rfl
@[simp] theorem setInput_active (m : Mixer) (k : Nat) (v : Half) : (setInput m k v).active = m.active := rfl
@[simp] theorem setInput_lr (m : Mixer) (k : Nat) (v : Half) : (setInput m k v).lr = m.lr := rfl
@[simp] theorem setInput_scale (m : Mixer) (k : Nat) (v : Half) : (setInput m k v).scale = m.scale := rfl
@[simp] theorem setInput_sel (m : Mixer) (k : Nat) (v : Half) : (setInput m k v).sel = m.sel := rfl
@[simp] theorem setInput_weights (m : Mixer) (k : Nat) (v : Half) : (setInput m k v).weights = m.weights := rfl
@[simp] theorem setInput_blend (m : Mixer) (k : Nat) (v : Half) : (setInput m k v).blend = m.blend := rfl

/-! ### pushInput -/

@[simp] theorem pushInput_n (m : Mixer) (v : Half) : (pushInput m v).n = m.n := rfl
@[simp] theorem pushInput_count (m : Mixer) (v : Half) : (pushInput m v).count = m.count + 1 := rfl
@[simp] theorem pushInput_active (m : Mixer) (v : Half) : (pushInput m v).active = m.active := rfl
@[simp] theorem pushInput_lr (m : Mixer) (v : Half) : (pushInput m v).lr = m.lr := rfl
@[simp] theorem pushInput_scale (m : Mixer) (v : Half) : (pushInput m v).scale = m.scale := rfl
@[simp] theorem pushInput_sel (m : Mixer) (v : Half) : (pushInput m v).sel = m.sel := rfl
@[simp] theorem pushInput_inputs (m : Mixer) (v : Half) : (pushInput m v).inputs = (setInput m m.count.toNat v).inputs := rfl
@[simp] theorem pushInput_weights (m : Mixer) (v : Half) : (pushInput m v).weights = m.weights := rfl
@[simp] theorem pushInput_blend (m : Mixer) (v : Half) : (pushInput m v).blend = m.blend := rfl

/-! ### freshMixer -/

@[simp] theorem freshMixer_n (m : Mixer) (c : Cfg) : (freshMixer c m).n = m.n := rfl
@[simp] theorem freshMixer_count (m : Mixer) (c : Cfg) : (freshMixer c m).count = 0 := rfl
@[simp] theorem freshMixer_active (m : Mixer) (c : Cfg) : (freshMixer c m).active = m.active := rfl
@[simp] theorem freshMixer_lr (m : Mixer) (c : Cfg) : (freshMixer c m).lr = m.lr := rfl
@[simp] theorem freshMixer_scale (m : Mixer) (c : Cfg) : (freshMixer c m).scale = m.scale := rfl
@[simp] theorem freshMixer_sel (m : Mixer) (c : Cfg) : (freshMixer c m).sel = m.sel := rfl
@[simp] theorem freshMixer_inputs (m : Mixer) (c : Cfg) : (freshMixer c m).inputs = m.inputs := rfl
@[simp] theorem freshMixer_weights (m : Mixer) (c : Cfg) : (freshMixer c m).weights = [] := rfl
@[simp] theorem freshMixer_blend (m : Mixer) (c : Cfg) : (freshMixer c m).blend = freshBlend c m.active := rfl

/-! ### setApm -/

@[simp] theorem setApm_ctx (a : Apm) (c k : Nat) (v : Half) : (setApm a c k v).ctx = a.ctx := rfl
@[simp] theorem setApm_rate (a : Apm) (c k : Nat) (v : Half) : (setApm a c k v).rate = a.rate := rfl
@[simp] theorem setApm_enabled (a : Apm) (c k : Nat) (v : Half) : (setApm a c k v).enabled = a.enabled := rfl
@[simp] theorem setApm_entries (a : Apm) (c k : Nat) (v : Half) : (setApm a c k v).entries = tableSet apmInit a.entries (apmKey c k) v := rfl

/-! ### freshApm -/

@[simp] theorem freshApm_ctx (a : Apm)  : (freshApm a).ctx = a.ctx := rfl
@[simp] theorem freshApm_rate (a : Apm)  : (freshApm a).rate = a.rate := rfl
@[simp] theorem freshApm_enabled (a : Apm)  : (freshApm a).enabled = a.enabled := rfl
@[simp] theorem freshApm_entries (a : Apm)  : (freshApm a).entries = [] := rfl

/-! ### setSlot -/

@[simp] theorem setSlot_scale (m : ContextMap) (b k : Nat) (v : Slot) : (setSlot m b k v).scale = m.scale := rfl
@[simp] theorem setSlot_lanes (m : ContextMap) (b k : Nat) (v : Slot) : (setSlot m b k v).lanes = m.lanes := rfl
@[simp] theorem setSlot_slots (m : ContextMap) (b k : Nat) (v : Slot) : (setSlot m b k v).slots = tableSet slotInit m.slots (slotKey b k) v := rfl
@[simp] theorem setSlot_mru (m : ContextMap) (b k : Nat) (v : Slot) : (setSlot m b k v).mru = m.mru := rfl
@[simp] theorem setSlot_sm1 (m : ContextMap) (b k : Nat) (v : Slot) : (setSlot m b k v).sm1 = m.sm1 := rfl
@[simp] theorem setSlot_sm2 (m : ContextMap) (b k : Nat) (v : Slot) : (setSlot m b k v).sm2 = m.sm2 := rfl

/-! ### setMru -/

@[simp] theorem setMru_scale (m : ContextMap) (b : Nat) (v : Mru) : (setMru m b v).scale = m.scale := rfl
@[simp] theorem setMru_lanes (m : ContextMap) (b : Nat) (v : Mru) : (setMru m b v).lanes = m.lanes := rfl
@[simp] theorem setMru_slots (m : ContextMap) (b : Nat) (v : Mru) : (setMru m b v).slots = m.slots := rfl
@[simp] theorem setMru_mru (m : ContextMap) (b : Nat) (v : Mru) : (setMru m b v).mru = tableSet mruInit m.mru b v := rfl
@[simp] theorem setMru_sm1 (m : ContextMap) (b : Nat) (v : Mru) : (setMru m b v).sm1 = m.sm1 := rfl
@[simp] theorem setMru_sm2 (m : ContextMap) (b : Nat) (v : Mru) : (setMru m b v).sm2 = m.sm2 := rfl

/-! ### setLane -/

@[simp] theorem setLane_scale (m : ContextMap) (l : Nat) (v : Lane) : (setLane m l v).scale = m.scale := rfl
@[simp] theorem setLane_lanes (m : ContextMap) (l : Nat) (v : Lane) : (setLane m l v).lanes = m.lanes.set l v := rfl
@[simp] theorem setLane_slots (m : ContextMap) (l : Nat) (v : Lane) : (setLane m l v).slots = m.slots := rfl
@[simp] theorem setLane_mru (m : ContextMap) (l : Nat) (v : Lane) : (setLane m l v).mru = m.mru := rfl
@[simp] theorem setLane_sm1 (m : ContextMap) (l : Nat) (v : Lane) : (setLane m l v).sm1 = m.sm1 := rfl
@[simp] theorem setLane_sm2 (m : ContextMap) (l : Nat) (v : Lane) : (setLane m l v).sm2 = m.sm2 := rfl

/-! ### setHandleSlot -/

@[simp] theorem setHandleSlot_scale (m : ContextMap) (h : Handle) (v : Slot) : (setHandleSlot m h v).scale = m.scale := rfl
@[simp] theorem setHandleSlot_lanes (m : ContextMap) (h : Handle) (v : Slot) : (setHandleSlot m h v).lanes = m.lanes := rfl
@[simp] theorem setHandleSlot_slots (m : ContextMap) (h : Handle) (v : Slot) : (setHandleSlot m h v).slots = tableSet slotInit m.slots (slotKey h.bucket.toNat h.slot.toNat) v := rfl
@[simp] theorem setHandleSlot_mru (m : ContextMap) (h : Handle) (v : Slot) : (setHandleSlot m h v).mru = m.mru := rfl
@[simp] theorem setHandleSlot_sm1 (m : ContextMap) (h : Handle) (v : Slot) : (setHandleSlot m h v).sm1 = m.sm1 := rfl
@[simp] theorem setHandleSlot_sm2 (m : ContextMap) (h : Handle) (v : Slot) : (setHandleSlot m h v).sm2 = m.sm2 := rfl

/-! ### setSm1 -/

@[simp] theorem setSm1_scale (m : ContextMap) (l k : Nat) (v : Half) : (setSm1 m l k v).scale = m.scale := rfl
@[simp] theorem setSm1_lanes (m : ContextMap) (l k : Nat) (v : Half) : (setSm1 m l k v).lanes = m.lanes := rfl
@[simp] theorem setSm1_slots (m : ContextMap) (l k : Nat) (v : Half) : (setSm1 m l k v).slots = m.slots := rfl
@[simp] theorem setSm1_mru (m : ContextMap) (l k : Nat) (v : Half) : (setSm1 m l k v).mru = m.mru := rfl
@[simp] theorem setSm1_sm1 (m : ContextMap) (l k : Nat) (v : Half) : (setSm1 m l k v).sm1 = tableSet smInit m.sm1 (sm1Key l k) v := rfl
@[simp] theorem setSm1_sm2 (m : ContextMap) (l k : Nat) (v : Half) : (setSm1 m l k v).sm2 = m.sm2 := rfl

/-! ### setSm2 -/

@[simp] theorem setSm2_scale (m : ContextMap) (l k : Nat) (v : Half) : (setSm2 m l k v).scale = m.scale := rfl
@[simp] theorem setSm2_lanes (m : ContextMap) (l k : Nat) (v : Half) : (setSm2 m l k v).lanes = m.lanes := rfl
@[simp] theorem setSm2_slots (m : ContextMap) (l k : Nat) (v : Half) : (setSm2 m l k v).slots = m.slots := rfl
@[simp] theorem setSm2_mru (m : ContextMap) (l k : Nat) (v : Half) : (setSm2 m l k v).mru = m.mru := rfl
@[simp] theorem setSm2_sm1 (m : ContextMap) (l k : Nat) (v : Half) : (setSm2 m l k v).sm1 = m.sm1 := rfl
@[simp] theorem setSm2_sm2 (m : ContextMap) (l k : Nat) (v : Half) : (setSm2 m l k v).sm2 = tableSet smInit m.sm2 (sm2Key l k) v := rfl

/-! ### freshCm -/

@[simp] theorem freshCm_scale (m : ContextMap) (c : Cfg) : (freshCm c m).scale = m.scale := rfl
@[simp] theorem freshCm_lanes (m : ContextMap) (c : Cfg) : (freshCm c m).lanes = List.replicate c.cmLanes freshLane := rfl
@[simp] theorem freshCm_slots (m : ContextMap) (c : Cfg) : (freshCm c m).slots = [] := rfl
@[simp] theorem freshCm_mru (m : ContextMap) (c : Cfg) : (freshCm c m).mru = [] := rfl
@[simp] theorem freshCm_sm1 (m : ContextMap) (c : Cfg) : (freshCm c m).sm1 = [] := rfl
@[simp] theorem freshCm_sm2 (m : ContextMap) (c : Cfg) : (freshCm c m).sm2 = [] := rfl

/-! ### setNode -/

@[simp] theorem setNode_top (d : DmcInst) (n : Nat) (v : Node) : (setNode d n v).top = d.top := rfl
@[simp] theorem setNode_curr (d : DmcInst) (n : Nat) (v : Node) : (setNode d n v).curr = d.curr := rfl
@[simp] theorem setNode_thr (d : DmcInst) (n : Nat) (v : Node) : (setNode d n v).thr = d.thr := rfl
@[simp] theorem setNode_extra (d : DmcInst) (n : Nat) (v : Node) : (setNode d n v).extra = d.extra := rfl
@[simp] theorem setNode_nodes (d : DmcInst) (n : Nat) (v : Node) : (setNode d n v).nodes = tableSet nodeInit d.nodes n v := rfl
@[simp] theorem setNode_smd (d : DmcInst) (n : Nat) (v : Node) : (setNode d n v).smd = d.smd := rfl

/-! ### setSmd -/

@[simp] theorem setSmd_top (d : DmcInst) (st : Byte) (v : Half) : (setSmd d st v).top = d.top := rfl
@[simp] theorem setSmd_curr (d : DmcInst) (st : Byte) (v : Half) : (setSmd d st v).curr = d.curr := rfl
@[simp] theorem setSmd_thr (d : DmcInst) (st : Byte) (v : Half) : (setSmd d st v).thr = d.thr := rfl
@[simp] theorem setSmd_extra (d : DmcInst) (st : Byte) (v : Half) : (setSmd d st v).extra = d.extra := rfl
@[simp] theorem setSmd_nodes (d : DmcInst) (st : Byte) (v : Half) : (setSmd d st v).nodes = d.nodes := rfl
@[simp] theorem setSmd_smd (d : DmcInst) (st : Byte) (v : Half) : (setSmd d st v).smd = tableSet smInit d.smd st.toNat v := rfl

/-! ### dmcInit -/

@[simp] theorem dmcInit_top (d : DmcInst) (c : Cfg) (i : Nat) : (dmcInit c i d).top = BitVec.ofNat 32 initialTop := rfl
@[simp] theorem dmcInit_curr (d : DmcInst) (c : Cfg) (i : Nat) : (dmcInit c i d).curr = d.curr := rfl
@[simp] theorem dmcInit_thr (d : DmcInst) (c : Cfg) (i : Nat) : (dmcInit c i d).thr = BitVec.ofNat 32 (c.thrInit i) := rfl
@[simp] theorem dmcInit_extra (d : DmcInst) (c : Cfg) (i : Nat) : (dmcInit c i d).extra = 0 := rfl
@[simp] theorem dmcInit_nodes (d : DmcInst) (c : Cfg) (i : Nat) : (dmcInit c i d).nodes = [] := rfl
@[simp] theorem dmcInit_smd (d : DmcInst) (c : Cfg) (i : Nat) : (dmcInit c i d).smd = d.smd := rfl

end Sys2Proof.Machine
end

