-- ==== Sys2Proof/Laws/Command.lean ====
section
/-! SUPPORT. What a command and a step can do, said once: the checks' verdict, the two shapes of a meaning, and the inversion
of exec and step that invariants are derived from. -/

namespace Sys2Proof.Machine

/-- No check fails exactly when each of them holds. -/
theorem firstFailure_none_iff (c : Checks) (s : State) :
    firstFailure c s = none ↔
      c.mode = true ∧ c.phase = true ∧ c.range = true ∧ overflows s c.pushed = false ∧
      (c.count = true → s.mixer.count = s.mixer.n) := by
  unfold firstFailure
  cases c.mode <;> cases c.phase <;> cases c.range <;> cases overflows s c.pushed <;> cases c.count <;> simp

/-- A meaning that needs no archive bytes ends in its fault or in its effect, never elsewhere. -/
theorem runCommand_cases {i : Instr} {c : Checks} {effect : State → State} {s t : State}
    (h : runCommand i c effect s = .next t) :
    (∃ code, firstFailure c s = some code ∧ t = faulted code i s) ∨
    (firstFailure c s = none ∧ t = effect (consume i.words s)) := by
  unfold runCommand at h
  split at h
  · next code hc => exact .inl ⟨code, hc, by simpa [faulted] using h.symm⟩
  · next hc => exact .inr ⟨hc, by simpa using h.symm⟩

/-- A meaning that needs archive bytes ends in its fault, in its effect once the bytes are there, or waits. -/
theorem runWaiting_cases {i : Instr} {c : Checks} {need : Nat} {effect : State → State} {s t : State}
    (h : runWaiting i c need effect s = .next t) :
    (∃ code, firstFailure c s = some code ∧ t = faulted code i s) ∨
    (firstFailure c s = none ∧ available need s = true ∧ t = effect (consume i.words s)) ∨
    (firstFailure c s = none ∧ available need s = false ∧ t = s) := by
  unfold runWaiting at h
  split at h
  · next code hc => exact .inl ⟨code, hc, by simpa [faulted] using h.symm⟩
  · next hc =>
    split at h
    · next ha => exact .inr (.inl ⟨hc, ha, by simpa using h.symm⟩)
    · next ha => exact .inr (.inr ⟨hc, by simpa using ha, by simpa using h.symm⟩)

/-- The effect each command has once its checks pass and its words are consumed. -/
def effectOf : Instr → State → State
  | .nop, t => t
  | .startEnc, t => startEncEffect t
  | .startDec, t => startDecEffect t
  | .flush, t => flushEffect t
  | .stop, t => stopEffect t
  | .encBit imm, t => stepEnc (immBit imm) t
  | .decBit, t => decBitEffect t
  | .peekP, t => result (peekWord (predictOf t)) t
  | .readReg imm, t => result ((readRegister t (immNat imm)).getD 0) t
  | .bhQuery code, t => result (bhQueryWord t.cfg.bhTable code) t
  | .cmSet lane fp, t => { t with cm := cmSetLane t.cfg t.c0 lane.toNat fp t.cm }
  | .cmMix, t => { t with mixer := pushInputs t.mixer (cmInputs t.cfg t.bpos t.c0 t.cm) }
  | .cmSetScale imm, t => { t with cm := { t.cm with scale := BitVec.ofNat 16 (immNat imm) } }
  | .mxAdd imm, t => { t with mixer := pushInput t.mixer (simmInput imm) }
  | .mxSelect bank ctx, t => { t with mixer := { t.mixer with sel := t.mixer.sel.set bank.toNat ctx } }
  | .mxSetN imm, t => { t with mixer := { t.mixer with n := BitVec.ofNat 16 (immNat imm) } }
  | .mxSetActive imm, t => { t with mixer := { t.mixer with active := BitVec.ofNat 4 (immNat imm) } }
  | .mxSetLr imm, t => { t with mixer := { t.mixer with lr := BitVec.ofNat 8 (immNat imm) } }
  | .mxSetScale imm, t => { t with mixer := { t.mixer with scale := BitVec.ofNat 16 (immNat imm) } }
  | .apmSetCtx imm, t => { t with apm := { t.apm with ctx := BitVec.ofNat 16 (immNat imm) } }
  | .apmSetRate imm, t => { t with apm := { t.apm with rate := BitVec.ofNat 4 (immNat imm) } }
  | .apmEnable imm, t => { t with apm := { t.apm with enabled := immBit imm } }
  | .dmcMix, t => { t with mixer := pushInputs t.mixer (dmcInputs t.dmc) }
  | .dmcSetScale imm, t => { t with dmc := { t.dmc with scale := BitVec.ofNat 16 (immNat imm) } }

/-- Every meaning is one of the two shapes, over the command's checks and its effect. -/
theorem exec_shape (i : Instr) (s : State) :
    (∃ c, exec i s = runCommand i c (effectOf i) s) ∨ (∃ c n, exec i s = runWaiting i c n (effectOf i) s) := by
  cases i
  case startDec => exact .inr ⟨_, _, rfl⟩
  case decBit => exact .inr ⟨_, _, rfl⟩
  all_goals first | exact .inl ⟨{}, rfl⟩ | exact .inl ⟨_, rfl⟩

/-- What a command can do: it waits and changes nothing, it faults, or it has its effect. -/
theorem exec_cases {i : Instr} {s t : State} (h : exec i s = .next t) :
    t = s ∨ (∃ code, t = faulted code i s) ∨ t = effectOf i (consume i.words s) := by
  rcases exec_shape i s with ⟨c, e⟩ | ⟨c, n, e⟩ <;> rw [e] at h
  · rcases runCommand_cases h with ⟨code, -, ht⟩ | ⟨-, ht⟩
    · exact .inr (.inl ⟨code, ht⟩)
    · exact .inr (.inr ht)
  · rcases runWaiting_cases h with ⟨code, -, ht⟩ | ⟨-, -, ht⟩ | ⟨-, -, ht⟩
    · exact .inr (.inl ⟨code, ht⟩)
    · exact .inr (.inr ht)
    · exact .inl ht

/-- What a step can do. -/
theorem step_cases {s t : State} (h : step s = .next t) :
    s.cfg.wf = true ∧
    (t = s ∨ (∃ code hdr, t = faultAtHead code hdr s) ∨
     ∃ i, s.halt = false ∧ decode s.ports.cmd = .command i ∧ exec i s = .next t) := by
  unfold step at h
  split at h
  · next hw =>
    refine ⟨hw, ?_⟩
    split at h
    · exact .inl (by simpa using h.symm)
    · next hh =>
      split at h
      · exact .inl (by simpa using h.symm)
      · next hdr _ => exact .inr (.inl ⟨.illegal, hdr, by simpa using h.symm⟩)
      · next hdr _ => exact .inr (.inl ⟨.resv, hdr, by simpa using h.symm⟩)
      · next i hi => exact .inr (.inr ⟨i, by simpa using hh, hi, h⟩)
  · cases h

end Sys2Proof.Machine
end

