-- ==== Sys2Proof/Laws/Numeric.lean ====
section
/-! SUPPORT. What the clamps of 00_scope.md R8 and R23 give, said once, and the exact sum of R303. -/

namespace Sys2Proof.Machine

theorem clamp_bounds (v lo hi : Int) (h : lo ≤ hi) : lo ≤ clamp v lo hi ∧ clamp v lo hi ≤ hi := by
  unfold clamp; split <;> [omega; split <;> omega]

theorem clamp_of_mem {v lo hi : Int} (h1 : lo ≤ v) (h2 : v ≤ hi) : clamp v lo hi = v := by
  unfold clamp; split <;> [omega; split <;> omega]

theorem clamp_mono {v w lo hi : Int} (h : v ≤ w) (hl : lo ≤ hi) : clamp v lo hi ≤ clamp w lo hi := by
  unfold clamp; split <;> split <;> (try split) <;> (try split) <;> omega

theorem sat16_toInt (v : Int) : (sat16 v).toInt = clamp v (-32768) 32767 := by
  have h := clamp_bounds v (-32768) 32767 (by omega)
  unfold sat16
  rw [BitVec.toInt_ofInt, Int.bmod_eq_of_le] <;> omega

theorem sat32_toInt (v : Int) : (sat32 v).toInt = clamp v (-2147483648) 2147483647 := by
  have h := clamp_bounds v (-2147483648) 2147483647 (by omega)
  unfold sat32
  rw [BitVec.toInt_ofInt, Int.bmod_eq_of_le] <;> omega

theorem clampP_bounds (p : Nat) : 1 ≤ clampP p ∧ clampP p ≤ 4094 := by
  unfold clampP; omega

theorem smP_bounds (e : BitVec 16) : 1 ≤ smP e ∧ smP e ≤ 4094 := clampP_bounds _

theorem bitNat_le (y : Bool) : bitNat y ≤ 1 := by cases y <;> decide

/-- A sum depends on its terms below the bound alone. -/
theorem sumTo_congr {f g : Nat → Int} {n : Nat} (h : ∀ k, k < n → f k = g k) : sumTo f n = sumTo g n := by
  induction n with
  | zero => rfl
  | succ n ih => simp only [sumTo, ih fun k hk => h k (by omega), h n (by omega)]

end Sys2Proof.Machine
end

