-- ==== Sys2Proof/Laws/Table.lean ====
section
/-! SUPPORT. The laws of the sparse tables: a read after a write, and the canonical form every operation keeps. -/

namespace Sys2Proof.Machine

variable {α : Type}

@[simp] theorem tableGet_nil (d : Nat → α) (k : Nat) : tableGet d [] k = d k := rfl

theorem tableGet_insert_same (d : Nat → α) (k : Nat) (v : α) (t : Table α) (h : ∀ e ∈ t, e.1 ≠ k) :
    tableGet d (tableInsert k v t) k = v := by
  induction t with
  | nil => simp [tableInsert, tableGet]
  | cons e t ih =>
    obtain ⟨a, u⟩ := e
    have ha : a ≠ k := h (a, u) (by simp)
    unfold tableInsert
    split
    · simp [tableGet]
    · simp only [tableGet, ha, if_false]
      exact ih fun e he => h e (by simp [he])

theorem tableGet_insert_other (d : Nat → α) (k i : Nat) (v : α) (t : Table α) (h : i ≠ k) :
    tableGet d (tableInsert k v t) i = tableGet d t i := by
  induction t with
  | nil => simp [tableInsert, tableGet, Ne.symm h]
  | cons e t ih =>
    obtain ⟨a, u⟩ := e
    unfold tableInsert
    split
    · simp [tableGet, Ne.symm h]
    · simp [tableGet, ih]

theorem tableErase_absent (k : Nat) (t : Table α) : ∀ e ∈ tableErase k t, e.1 ≠ k := by
  intro e he
  simpa using (List.mem_filter.mp he).2

theorem tableGet_absent (d : Nat → α) (k : Nat) (t : Table α) (h : ∀ e ∈ t, e.1 ≠ k) : tableGet d t k = d k := by
  induction t with
  | nil => rfl
  | cons e t ih =>
    obtain ⟨a, u⟩ := e
    have ha : a ≠ k := h (a, u) (by simp)
    simp only [tableGet, ha, if_false]
    exact ih fun e he => h e (by simp [he])

theorem tableGet_erase_other (d : Nat → α) (k i : Nat) (t : Table α) (h : i ≠ k) :
    tableGet d (tableErase k t) i = tableGet d t i := by
  induction t with
  | nil => rfl
  | cons e t ih =>
    obtain ⟨a, u⟩ := e
    by_cases ha : a = k
    · subst ha
      simpa [tableErase, tableGet, Ne.symm h] using ih
    · simp only [tableErase, List.filter_cons, bne_iff_ne, ne_eq, ha, not_false_eq_true, if_true, tableGet]
      rw [← ih]; rfl

/-- A read of the entry just written gives the value written. -/
@[simp] theorem tableGet_set_same [DecidableEq α] (d : Nat → α) (t : Table α) (k : Nat) (v : α) :
    tableGet d (tableSet d t k v) k = v := by
  unfold tableSet
  split
  · next h => rw [h]; exact tableGet_absent d k _ (tableErase_absent k t)
  · exact tableGet_insert_same d k v _ (tableErase_absent k t)

/-- A write leaves every other entry alone. -/
theorem tableGet_set_other [DecidableEq α] (d : Nat → α) (t : Table α) (k i : Nat) (v : α) (h : i ≠ k) :
    tableGet d (tableSet d t k v) i = tableGet d t i := by
  unfold tableSet
  split
  · exact tableGet_erase_other d k i t h
  · rw [tableGet_insert_other d k i v _ h, tableGet_erase_other d k i t h]

/-- Both cases of a read after a write. -/
theorem tableGet_set [DecidableEq α] (d : Nat → α) (t : Table α) (k i : Nat) (v : α) :
    tableGet d (tableSet d t k v) i = if i = k then v else tableGet d t i := by
  by_cases h : i = k
  · subst h; simp
  · simp [h, tableGet_set_other]

/-! ### The canonical form -/

/-- A lower bound may be lowered. -/
theorem tableRising_weaken (l l' : Nat) (t : Table α) (hl : l' ≤ l) (h : tableRising (some l) t = true) :
    tableRising (some l') t = true := by
  cases t with
  | nil => rfl
  | cons e t =>
    obtain ⟨a, u⟩ := e
    simp only [tableRising, Option.all_some, Bool.and_eq_true, decide_eq_true_eq] at h ⊢
    exact ⟨by omega, h.2⟩

theorem tableRising_erase (k : Nat) (lo : Option Nat) (t : Table α) (h : tableRising lo t = true) :
    tableRising lo (tableErase k t) = true := by
  induction t generalizing lo with
  | nil => rfl
  | cons e t ih =>
    obtain ⟨a, u⟩ := e
    simp only [tableRising, Bool.and_eq_true] at h
    have h2 := ih (some a) h.2
    by_cases ha : a = k
    · have e1 : tableErase k ((a, u) :: t) = tableErase k t := by simp [tableErase, ha]
      rw [e1]
      cases lo with
      | none => exact ih none (by cases t with
          | nil => rfl
          | cons e t => simpa [tableRising] using (by simpa [tableRising] using h.2 : _ ∧ _).2)
      | some l => exact tableRising_weaken a l _ (by simpa using Nat.le_of_lt (by simpa using h.1)) h2
    · have e1 : tableErase k ((a, u) :: t) = (a, u) :: tableErase k t := by simp [tableErase, ha]
      rw [e1]
      simp only [tableRising, Bool.and_eq_true]
      exact ⟨h.1, h2⟩

theorem tableRising_insert (k : Nat) (v : α) (lo : Option Nat) (t : Table α) (h : tableRising lo t = true)
    (hlo : (lo.all fun l => decide (l < k)) = true) (hk : ∀ e ∈ t, e.1 ≠ k) :
    tableRising lo (tableInsert k v t) = true := by
  induction t generalizing lo with
  | nil => simp [tableInsert, tableRising, hlo]
  | cons e t ih =>
    obtain ⟨a, u⟩ := e
    have ha : a ≠ k := hk (a, u) (by simp)
    simp only [tableRising, Bool.and_eq_true] at h
    unfold tableInsert
    split
    · next hka => simp [tableRising, hlo, hka, h.2]
    · simp only [tableRising, Bool.and_eq_true]
      exact ⟨h.1, ih (some a) h.2 (by simp; omega) fun e he => hk e (by simp [he])⟩

theorem tableInsert_mem (k : Nat) (v : α) (t : Table α) (e : Nat × α) (h : e ∈ tableInsert k v t) : e = (k, v) ∨ e ∈ t := by
  induction t with
  | nil => simpa [tableInsert] using h
  | cons x t ih =>
    obtain ⟨a, u⟩ := x
    unfold tableInsert at h
    split at h
    · simpa using h
    · rcases List.mem_cons.mp h with h | h
      · simp [h]
      · rcases ih h with h | h
        · exact .inl h
        · simp [h]

/-- Every write of a table keeps the canonical form. -/
theorem tableWf_set [DecidableEq α] (d : Nat → α) (t : Table α) (k : Nat) (v : α) (h : tableWf d t = true) :
    tableWf d (tableSet d t k v) = true := by
  simp only [tableWf, Bool.and_eq_true, List.all_eq_true, decide_eq_true_eq] at h ⊢
  have he : ∀ e ∈ tableErase k t, e.2 ≠ d e.1 := fun e he => h.2 e (List.mem_filter.mp he).1
  unfold tableSet
  split
  · exact ⟨tableRising_erase k none t h.1, he⟩
  · next hv =>
    refine ⟨tableRising_insert k v none _ (tableRising_erase k none t h.1) rfl (tableErase_absent k t), fun e hm => ?_⟩
    rcases tableInsert_mem k v _ e hm with rfl | hm
    · exact hv
    · exact he e hm

@[simp] theorem tableWf_nil [DecidableEq α] (d : Nat → α) : tableWf d [] = true := rfl

/-! ### Elementwise updates -/

variable {β : Type}

@[simp] theorem mapFrom_length (f : Nat → α → β) (i : Nat) (l : List α) : (mapFrom f i l).length = l.length := by
  induction l generalizing i with
  | nil => rfl
  | cons a l ih => simp [mapFrom, ih]

theorem mapFrom_get (f : Nat → α → β) (i k : Nat) (l : List α) : (mapFrom f i l)[k]? = (l[k]?).map (f (i + k)) := by
  induction l generalizing i k with
  | nil => simp [mapFrom]
  | cons a l ih =>
    cases k with
    | zero => simp [mapFrom]
    | succ k => simp [mapFrom, ih, Nat.add_assoc, Nat.add_comm 1 k]

theorem mapFrom_getElem (f : Nat → α → β) (i k : Nat) (l : List α) (h : k < (mapFrom f i l).length) :
    (mapFrom f i l)[k] = f (i + k) (l[k]'(by simpa using h)) := by
  have h' : k < l.length := by simpa using h
  have e := mapFrom_get f i k l
  rw [List.getElem?_eq_getElem h, List.getElem?_eq_getElem h'] at e
  simpa using e

theorem mapFrom_zero (f : Nat → α → β) (l : List α) : mapFrom f 0 l = l.mapIdx f :=
  List.ext_getElem? fun k => by rw [mapFrom_get, List.getElem?_mapIdx, Nat.zero_add]

end Sys2Proof.Machine
end

