-- ==== Sys2Proof/Laws/Ops.lean ====
section
/-! SUPPORT. The laws of the shared operations of Ops: each table's read after a write, the canonical form every write
keeps, the pushes into MXIN, and what the byte operations over the ports do as a whole. -/

namespace Sys2Proof.Machine

/-! ## Keys name their entries -/

theorem weightKey_inj {j c k j' c' k' : Nat} (hc : c < 65536) (hk : k < 65536) (hc' : c' < 65536) (hk' : k' < 65536) :
    weightKey j c k = weightKey j' c' k' ↔ j = j' ∧ c = c' ∧ k = k' := by
  unfold weightKey; omega

theorem apmKey_inj {c k c' k' : Nat} (hk : k < 33) (hk' : k' < 33) : apmKey c k = apmKey c' k' ↔ c = c' ∧ k = k' := by
  unfold apmKey; omega

theorem slotKey_inj {b k b' k' : Nat} (hk : k < 16) (hk' : k' < 16) : slotKey b k = slotKey b' k' ↔ b = b' ∧ k = k' := by
  unfold slotKey; omega

theorem sm1Key_inj {l k l' k' : Nat} (hk : k < 256) (hk' : k' < 256) : sm1Key l k = sm1Key l' k' ↔ l = l' ∧ k = k' := by
  unfold sm1Key; omega

theorem sm2Key_inj {l k l' k' : Nat} (hk : k < 768) (hk' : k' < 768) : sm2Key l k = sm2Key l' k' ↔ l = l' ∧ k = k' := by
  unfold sm2Key; omega

/-! ## Reads after writes -/

@[simp] theorem weightAt_setWeight_same (m : Mixer) (j c k : Nat) (v : Word) : weightAt (setWeight m j c k v) j c k = v := by
  simp [weightAt]

theorem weightAt_setWeight_other (m : Mixer) {j c k j' c' k' : Nat} (v : Word) (h : weightKey j' c' k' ≠ weightKey j c k) :
    weightAt (setWeight m j c k v) j' c' k' = weightAt m j' c' k' := by
  simp [weightAt, tableGet_set_other, h]

@[simp] theorem apmAt_setApm_same (a : Apm) (c k : Nat) (v : Half) : apmAt (setApm a c k v) c k = v := by
  simp [apmAt]

theorem apmAt_setApm_other (a : Apm) {c k c' k' : Nat} (v : Half) (h : apmKey c' k' ≠ apmKey c k) :
    apmAt (setApm a c k v) c' k' = apmAt a c' k' := by
  simp [apmAt, tableGet_set_other, h]

@[simp] theorem slotAt_setSlot_same (m : ContextMap) (b k : Nat) (v : Slot) : slotAt (setSlot m b k v) b k = v := by
  simp [slotAt]

theorem slotAt_setSlot_other (m : ContextMap) {b k b' k' : Nat} (v : Slot) (h : slotKey b' k' ≠ slotKey b k) :
    slotAt (setSlot m b k v) b' k' = slotAt m b' k' := by
  simp [slotAt, tableGet_set_other, h]

@[simp] theorem mruAt_setMru_same (m : ContextMap) (b : Nat) (v : Mru) : mruAt (setMru m b v) b = v := by
  simp [mruAt]

theorem mruAt_setMru_other (m : ContextMap) {b b' : Nat} (v : Mru) (h : b' ≠ b) : mruAt (setMru m b v) b' = mruAt m b' := by
  simp [mruAt, tableGet_set_other, h]

@[simp] theorem slotAt_setMru (m : ContextMap) (b : Nat) (v : Mru) (b' k : Nat) :
    slotAt (setMru m b v) b' k = slotAt m b' k := rfl

@[simp] theorem mruAt_setSlot (m : ContextMap) (b k : Nat) (v : Slot) (b' : Nat) :
    mruAt (setSlot m b k v) b' = mruAt m b' := rfl

@[simp] theorem handleSlot_setHandleSlot (m : ContextMap) (h : Handle) (v : Slot) :
    handleSlot (setHandleSlot m h v) h = v := by
  simp [handleSlot, setHandleSlot]

@[simp] theorem sm1At_setSm1_same (m : ContextMap) (l k : Nat) (v : Half) : sm1At (setSm1 m l k v) l k = v := by
  simp [sm1At]

theorem sm1At_setSm1_other (m : ContextMap) {l k l' k' : Nat} (v : Half) (h : sm1Key l' k' ≠ sm1Key l k) :
    sm1At (setSm1 m l k v) l' k' = sm1At m l' k' := by
  simp [sm1At, tableGet_set_other, h]

@[simp] theorem sm2At_setSm2_same (m : ContextMap) (l k : Nat) (v : Half) : sm2At (setSm2 m l k v) l k = v := by
  simp [sm2At]

theorem sm2At_setSm2_other (m : ContextMap) {l k l' k' : Nat} (v : Half) (h : sm2Key l' k' ≠ sm2Key l k) :
    sm2At (setSm2 m l k v) l' k' = sm2At m l' k' := by
  simp [sm2At, tableGet_set_other, h]

@[simp] theorem nodeAt_setNode_same (d : DmcInst) (n : Nat) (v : Node) : nodeAt (setNode d n v) n = v := by
  simp [nodeAt]

theorem nodeAt_setNode_other (d : DmcInst) {n n' : Nat} (v : Node) (h : n' ≠ n) :
    nodeAt (setNode d n v) n' = nodeAt d n' := by
  simp [nodeAt, tableGet_set_other, h]

@[simp] theorem nodeAt_setSmd (d : DmcInst) (st : Byte) (v : Half) (n : Nat) : nodeAt (setSmd d st v) n = nodeAt d n := rfl

@[simp] theorem smdAt_setSmd_same (d : DmcInst) (st : Byte) (v : Half) : smdAt (setSmd d st v) st = v := by
  simp [smdAt]

theorem smdAt_setSmd_other (d : DmcInst) {st st' : Byte} (v : Half) (h : st' ≠ st) :
    smdAt (setSmd d st v) st' = smdAt d st' := by
  have : st'.toNat ≠ st.toNat := fun e => h (BitVec.eq_of_toNat_eq e)
  simp [smdAt, tableGet_set_other, this]

@[simp] theorem smdAt_setNode (d : DmcInst) (n : Nat) (v : Node) (st : Byte) : smdAt (setNode d n v) st = smdAt d st := rfl

theorem laneAt_setLane_same (m : ContextMap) (l : Nat) (v : Lane) (h : l < m.lanes.length) : laneAt (setLane m l v) l = v := by
  simp [laneAt, List.getD_eq_getElem?_getD, h]

theorem laneAt_setLane_other (m : ContextMap) {l l' : Nat} (v : Lane) (h : l' ≠ l) :
    laneAt (setLane m l v) l' = laneAt m l' := by
  simp [laneAt, List.getD_eq_getElem?_getD, List.getElem?_set_ne (Ne.symm h)]

@[simp] theorem slotByte_setSlotByte_same (t : Slot) (i : Nat) (v : Byte) : slotByte (setSlotByte t i v) i = v := by
  unfold setSlotByte
  split <;> simp_all [slotByte]

theorem slotByte_setSlotByte_other (t : Slot) {i k : Nat} (v : Byte) (hk : k < 7) (hi : i < 7) (h : k ≠ i) :
    slotByte (setSlotByte t i v) k = slotByte t k := by
  interval_cases i <;> interval_cases k <;> first | exact absurd rfl h | rfl

@[simp] theorem setSlotByte_chk (t : Slot) (i : Nat) (v : Byte) : (setSlotByte t i v).chk = t.chk := by
  unfold setSlotByte
  split <;> rfl

/-! ## The canonical form is kept by every write, and holds at reset -/

theorem setWeight_wf (m : Mixer) (j c k : Nat) (v : Word) (h : tableWf weightInit m.weights = true) :
    tableWf weightInit (setWeight m j c k v).weights = true := tableWf_set _ _ _ _ h

theorem setApm_wf (a : Apm) (c k : Nat) (v : Half) (h : tableWf apmInit a.entries = true) :
    tableWf apmInit (setApm a c k v).entries = true := tableWf_set _ _ _ _ h

theorem setSlot_wf (m : ContextMap) (b k : Nat) (v : Slot) (h : tableWf slotInit m.slots = true) :
    tableWf slotInit (setSlot m b k v).slots = true := tableWf_set _ _ _ _ h

theorem setMru_wf (m : ContextMap) (b : Nat) (v : Mru) (h : tableWf mruInit m.mru = true) :
    tableWf mruInit (setMru m b v).mru = true := tableWf_set _ _ _ _ h

theorem setSm1_wf (m : ContextMap) (l k : Nat) (v : Half) (h : tableWf smInit m.sm1 = true) :
    tableWf smInit (setSm1 m l k v).sm1 = true := tableWf_set _ _ _ _ h

theorem setSm2_wf (m : ContextMap) (l k : Nat) (v : Half) (h : tableWf smInit m.sm2 = true) :
    tableWf smInit (setSm2 m l k v).sm2 = true := tableWf_set _ _ _ _ h

theorem setNode_wf (d : DmcInst) (n : Nat) (v : Node) (h : tableWf nodeInit d.nodes = true) :
    tableWf nodeInit (setNode d n v).nodes = true := tableWf_set _ _ _ _ h

theorem setSmd_wf (d : DmcInst) (st : Byte) (v : Half) (h : tableWf smInit d.smd = true) :
    tableWf smInit (setSmd d st v).smd = true := tableWf_set _ _ _ _ h

/-- The tables of a core that reset or START has just initialised list nothing. -/
theorem memory_wf_resetWith (c : Cfg) : Memory.wf (State.resetWith c) = true := by
  simp [Memory.wf, State.resetWith, resetMixer, resetApm, resetCm, resetForest, freshForest, freshInst]

/-! ## MXIN -/

theorem setInput_length (m : Mixer) (k : Nat) (v : Half) : (setInput m k v).inputs.length = max m.inputs.length (k + 1) := by
  simp [setInput]; omega

@[simp] theorem inputAt_setInput_same (m : Mixer) (k : Nat) (v : Half) : inputAt (setInput m k v) k = v := by
  have h := setInput_length m k v
  simp only [inputAt, setInput, List.length_set] at h ⊢
  rw [List.getElem?_set_self (by omega)]
  rfl

theorem inputAt_setInput_other (m : Mixer) {k i : Nat} (v : Half) (h : i ≠ k) :
    inputAt (setInput m k v) i = inputAt m i := by
  simp only [inputAt, setInput, List.getElem?_set_ne (Ne.symm h)]
  by_cases hi : i < m.inputs.length
  · rw [List.getElem?_append_left hi]
  · rw [List.getElem?_append_right (by omega), List.getElem?_eq_none (l := m.inputs) (by omega)]
    by_cases hn : i - m.inputs.length < k + 1 - m.inputs.length
    · simp [hn, show m.inputs.length + (i - m.inputs.length) = i by omega]
    · simp [hn]

/-- What pushing values in order does, when MX_COUNT does not wrap: they stand at MX_COUNT and above, in order, and no
other field of the mixer and no other entry changes. -/
theorem pushInputs_spec (vs : List Half) (m : Mixer) (h : m.count.toNat + vs.length < 65536) :
    (pushInputs m vs).count.toNat = m.count.toNat + vs.length ∧
    (∀ i (hi : i < vs.length), inputAt (pushInputs m vs) (m.count.toNat + i) = vs[i]) ∧
    (∀ k, (k < m.count.toNat ∨ m.count.toNat + vs.length ≤ k) → inputAt (pushInputs m vs) k = inputAt m k) ∧
    pushInputs m vs = { m with count := (pushInputs m vs).count, inputs := (pushInputs m vs).inputs } := by
  induction vs generalizing m with
  | nil => simp [pushInputs]
  | cons v vs ih =>
    have hl : (v :: vs).length = vs.length + 1 := rfl
    have hc : (pushInput m v).count.toNat = m.count.toNat + 1 := by
      simp only [pushInput_count, BitVec.toNat_add]
      simp only [List.length_cons] at h
      simp; omega
    have e : pushInputs m (v :: vs) = pushInputs (pushInput m v) vs := rfl
    obtain ⟨h1, h2, h3, h4⟩ := ih (pushInput m v) (by omega)
    have hi : ∀ k, inputAt (pushInput m v) k = inputAt (setInput m m.count.toNat v) k := fun k => rfl
    rw [e]
    refine ⟨by omega, ?_, ?_, ?_⟩
    · intro i hi'
      cases i with
      | zero =>
        rw [h3 _ (.inl (by omega)), hi]
        simp
      | succ i =>
        have := h2 i (by simpa using hi')
        rw [hc] at this
        rw [show m.count.toNat + (i + 1) = m.count.toNat + 1 + i by omega, this]
        simp
    · intro k hk
      rw [h3 k (by omega), hi]
      exact inputAt_setInput_other m v (by omega)
    · rw [h4]; rfl

/-! ## The byte operations over the ports -/

/-- OutByte of each byte in order appends them and counts them; nothing else changes. -/
theorem outBytes_eq (l : List Byte) (s : State) :
    outBytes l s = { s with outCnt := s.outCnt + BitVec.ofNat 32 l.length
                            ports := { s.ports with archOut := s.ports.archOut ++ l } } := by
  induction l generalizing s with
  | nil => simp [outBytes]
  | cons b l ih =>
    simp only [outBytes, ih, outByte]
    have : s.outCnt + 1#32 + BitVec.ofNat 32 l.length = s.outCnt + BitVec.ofNat 32 (l.length + 1) := by
      rw [Nat.add_comm, BitVec.ofNat_add, ← BitVec.add_assoc]
    simp [this]

/-- One decoder shift takes a byte when there is one, and else the padding; nothing but X, INCNT and the FIFO changes. -/
theorem shiftInByte_eq (s : State) :
    shiftInByte s = { s with
      coder := { s.coder with x := (s.coder.x <<< 8) ||| (s.ports.archIn.headD 0).setWidth 32 }
      inCnt := s.inCnt + BitVec.ofNat 32 (min 1 s.ports.archIn.length)
      ports := { s.ports with archIn := s.ports.archIn.drop 1 } } := by
  obtain ⟨_, _, _, _, _, _, _, _, _, _, _, _, _, _, _, _, ⟨_, _, archIn, _, _⟩⟩ := s
  cases archIn <;> simp [shiftInByte, inByte]

/-- Decoder shifts take the first bytes of the FIFO and count them; nothing but X, INCNT and the FIFO changes. -/
theorem shiftInBytes_eq (n : Nat) (s : State) :
    shiftInBytes n s = { s with
      coder := { s.coder with x := (shiftInBytes n s).coder.x }
      inCnt := s.inCnt + BitVec.ofNat 32 (min n s.ports.archIn.length)
      ports := { s.ports with archIn := s.ports.archIn.drop n } } := by
  induction n generalizing s with
  | zero => simp [shiftInBytes]
  | succ n ih =>
    have e : shiftInBytes (n + 1) s = shiftInBytes n (shiftInByte s) := rfl
    rw [e, ih (shiftInByte s)]
    rw [shiftInByte_eq s]
    have hc : min 1 s.ports.archIn.length + min n (s.ports.archIn.length - 1) = min (n + 1) s.ports.archIn.length := by omega
    have : s.inCnt + BitVec.ofNat 32 (min 1 s.ports.archIn.length) + BitVec.ofNat 32 (min n (s.ports.archIn.length - 1)) =
        s.inCnt + BitVec.ofNat 32 (min (n + 1) s.ports.archIn.length) := by
      rw [← hc, BitVec.ofNat_add, BitVec.add_assoc]
    simp [this]

end Sys2Proof.Machine
end

