-- ==== Sys2Proof/Laws/PerInstr.lean ====
section
/-! SUPPORT. The families of statements made per command: their Statement and one lemma for each constructor. -/

namespace Sys2Proof.Laws

open Sys2Proof.Machine

/-- The words of a command: a header that carries its opcode and no reserved bit, and as many words as OP counts
(30_encoding.md R131, R132, R133, R136). -/
def EncodedWords.Statement (i : Instr) : Prop :=
  opOf i.header = i.opcode ∧ i.header &&& reservedBitsOf i.opcode.toNat = 0 ∧ illegalOp i.opcode.toNat = false ∧
  wordsOf i.header = i.words ∧ encode i = i.header :: i.payload

/-- The opcode is read back from a header built of it. -/
theorem opOf_append (o : Byte) (b : BitVec 24) : opOf (o ++ b) = o := by
  unfold opOf
  ext k hk
  simp only [BitVec.getElem_extractLsb', BitVec.getLsbD_append]
  rw [if_neg (by omega), show 24 + k - 24 = k by omega]
  exact (BitVec.getLsbD_eq_getElem hk)

/-- A mask that leaves the opcode byte alone meets the operand fields alone. -/
theorem header_and (o : Byte) (b m : BitVec 24) (h : b &&& m = 0) : (o ++ b : Word) &&& ((0 : Byte) ++ m : Word) = 0 := by
  rw [BitVec.and_append, h]
  simp

/-- A zero-extended operand meets no mask above its width. -/
theorem operand_and {w : Nat} (x : BitVec w) (m : BitVec 24) (h : m.setWidth w = 0) : x.setWidth 24 &&& m = 0 := by
  ext k hk
  have e := congrArg (fun v => BitVec.getLsbD v k) h
  by_cases hw : k < w
  · have hm : m[k] = false := by simpa [hw, BitVec.getLsbD_eq_getElem hk] using e
    simp [hm]
  · simp [BitVec.getLsbD_of_ge x k (by omega)]

theorem EncodedWords.nop : EncodedWords.Statement .nop :=
  ⟨by decide, by decide, by decide, by decide, rfl⟩

theorem EncodedWords.startEnc : EncodedWords.Statement .startEnc :=
  ⟨by decide, by decide, by decide, by decide, rfl⟩

theorem EncodedWords.startDec : EncodedWords.Statement .startDec :=
  ⟨by decide, by decide, by decide, by decide, rfl⟩

theorem EncodedWords.flush : EncodedWords.Statement .flush :=
  ⟨by decide, by decide, by decide, by decide, rfl⟩

theorem EncodedWords.stop : EncodedWords.Statement .stop :=
  ⟨by decide, by decide, by decide, by decide, rfl⟩

theorem EncodedWords.encBit (imm : Half) : EncodedWords.Statement (.encBit imm) :=
  ⟨opOf_append _ _, header_and _ _ 0xFF0000#24 (operand_and imm 0xFF0000#24 (by decide)), rfl,
   by rw [wordsOf, Instr.header, opOf_append]; rfl, rfl⟩

theorem EncodedWords.decBit : EncodedWords.Statement .decBit :=
  ⟨by decide, by decide, by decide, by decide, rfl⟩

theorem EncodedWords.peekP : EncodedWords.Statement .peekP :=
  ⟨by decide, by decide, by decide, by decide, rfl⟩

theorem EncodedWords.readReg (imm : Half) : EncodedWords.Statement (.readReg imm) :=
  ⟨opOf_append _ _, header_and _ _ 0xFF0000#24 (operand_and imm 0xFF0000#24 (by decide)), rfl,
   by rw [wordsOf, Instr.header, opOf_append]; rfl, rfl⟩

theorem EncodedWords.bhQuery (code : Byte) : EncodedWords.Statement (.bhQuery code) :=
  ⟨opOf_append _ _, header_and _ _ 0xFFFF00#24 (operand_and code 0xFFFF00#24 (by decide)), rfl,
   by rw [wordsOf, Instr.header, opOf_append]; rfl, rfl⟩

theorem EncodedWords.cmSet (lane : Byte) (fp : Long) : EncodedWords.Statement (.cmSet lane fp) :=
  ⟨opOf_append _ _, header_and _ _ 0xFFFF00#24 (operand_and lane 0xFFFF00#24 (by decide)), rfl,
   by rw [wordsOf, Instr.header, opOf_append]; rfl, rfl⟩

theorem EncodedWords.cmMix : EncodedWords.Statement .cmMix :=
  ⟨by decide, by decide, by decide, by decide, rfl⟩

theorem EncodedWords.cmSetScale (imm : Half) : EncodedWords.Statement (.cmSetScale imm) :=
  ⟨opOf_append _ _, header_and _ _ 0xFF0000#24 (operand_and imm 0xFF0000#24 (by decide)), rfl,
   by rw [wordsOf, Instr.header, opOf_append]; rfl, rfl⟩

theorem EncodedWords.mxAdd (imm : Half) : EncodedWords.Statement (.mxAdd imm) :=
  ⟨opOf_append _ _, header_and _ _ 0xFF0000#24 (operand_and imm 0xFF0000#24 (by decide)), rfl,
   by rw [wordsOf, Instr.header, opOf_append]; rfl, rfl⟩

theorem EncodedWords.mxSelect (bank : Byte) (ctx : Half) : EncodedWords.Statement (.mxSelect bank ctx) :=
  ⟨opOf_append _ _, BitVec.and_zero, rfl,
   by rw [wordsOf, Instr.header, opOf_append]; rfl, rfl⟩

theorem EncodedWords.mxSetN (imm : Half) : EncodedWords.Statement (.mxSetN imm) :=
  ⟨opOf_append _ _, header_and _ _ 0xFF0000#24 (operand_and imm 0xFF0000#24 (by decide)), rfl,
   by rw [wordsOf, Instr.header, opOf_append]; rfl, rfl⟩

theorem EncodedWords.mxSetActive (imm : Half) : EncodedWords.Statement (.mxSetActive imm) :=
  ⟨opOf_append _ _, header_and _ _ 0xFF0000#24 (operand_and imm 0xFF0000#24 (by decide)), rfl,
   by rw [wordsOf, Instr.header, opOf_append]; rfl, rfl⟩

theorem EncodedWords.mxSetLr (imm : Half) : EncodedWords.Statement (.mxSetLr imm) :=
  ⟨opOf_append _ _, header_and _ _ 0xFF0000#24 (operand_and imm 0xFF0000#24 (by decide)), rfl,
   by rw [wordsOf, Instr.header, opOf_append]; rfl, rfl⟩

theorem EncodedWords.mxSetScale (imm : Half) : EncodedWords.Statement (.mxSetScale imm) :=
  ⟨opOf_append _ _, header_and _ _ 0xFF0000#24 (operand_and imm 0xFF0000#24 (by decide)), rfl,
   by rw [wordsOf, Instr.header, opOf_append]; rfl, rfl⟩

theorem EncodedWords.apmSetCtx (imm : Half) : EncodedWords.Statement (.apmSetCtx imm) :=
  ⟨opOf_append _ _, header_and _ _ 0xFF0000#24 (operand_and imm 0xFF0000#24 (by decide)), rfl,
   by rw [wordsOf, Instr.header, opOf_append]; rfl, rfl⟩

theorem EncodedWords.apmSetRate (imm : Half) : EncodedWords.Statement (.apmSetRate imm) :=
  ⟨opOf_append _ _, header_and _ _ 0xFF0000#24 (operand_and imm 0xFF0000#24 (by decide)), rfl,
   by rw [wordsOf, Instr.header, opOf_append]; rfl, rfl⟩

theorem EncodedWords.apmEnable (imm : Half) : EncodedWords.Statement (.apmEnable imm) :=
  ⟨opOf_append _ _, header_and _ _ 0xFF0000#24 (operand_and imm 0xFF0000#24 (by decide)), rfl,
   by rw [wordsOf, Instr.header, opOf_append]; rfl, rfl⟩

theorem EncodedWords.dmcMix : EncodedWords.Statement .dmcMix :=
  ⟨by decide, by decide, by decide, by decide, rfl⟩

theorem EncodedWords.dmcSetScale (imm : Half) : EncodedWords.Statement (.dmcSetScale imm) :=
  ⟨opOf_append _ _, header_and _ _ 0xFF0000#24 (operand_and imm 0xFF0000#24 (by decide)), rfl,
   by rw [wordsOf, Instr.header, opOf_append]; rfl, rfl⟩

end Sys2Proof.Laws
end

