-- ==== Sys2Proof/Laws/Unit.lean ====
section
/-! SUPPORT. What the units' operations leave alone, and the inductions over lanes, banks and instances, packaged once. -/

namespace Sys2Proof.Machine

/-! ## Inductions -/

/-- A property that each step of a fold keeps holds after the fold. -/
theorem foldl_keeps {α β : Type} (P : α → Prop) (f : α → β → α) (l : List β) (a : α) (h : P a)
    (hf : ∀ a b, b ∈ l → P a → P (f a b)) : P (l.foldl f a) := by
  induction l generalizing a with
  | nil => exact h
  | cons b l ih => exact ih (f a b) (hf a b (by simp) h) fun a c hc => hf a c (by simp [hc])

/-- A property that the update of each valid lane keeps holds after all of them. -/
theorem forValidLanes_keeps (P : ContextMap → Prop) (c : Cfg) (f : Nat → ContextMap → ContextMap) (m : ContextMap) (h : P m)
    (hf : ∀ l m, l < c.cmLanes → (laneAt m l).valid = true → P m → P (f l m)) : P (forValidLanes c f m) := by
  refine foldl_keeps P _ _ m h fun m l hl hm => ?_
  split
  · next hv => exact hf l m (by simpa using hl) hv hm
  · exact hm

/-- A fold that skips some elements is the fold over the others, when no step changes which are skipped. -/
theorem foldl_filter_eq {α β : Type} (p : α → β → Bool) (f : α → β → α) (l : List β) (a : α)
    (hf : ∀ a b c, p (f a b) c = p a c) :
    l.foldl (fun a b => if p a b then f a b else a) a = (l.filter (p a)).foldl f a := by
  induction l generalizing a with
  | nil => rfl
  | cons b l ih =>
    by_cases h : p a b = true
    · have e : p (f a b) = p a := funext fun c => hf a b c
      simp [h, ih, e]
    · simp [h, ih]

/-- An update of each valid lane that makes no lane valid or invalid is a fold over the lanes valid before it. -/
theorem forValidLanes_eq (c : Cfg) (f : Nat → ContextMap → ContextMap) (m : ContextMap)
    (hf : ∀ l m k, (laneAt (f l m) k).valid = (laneAt m k).valid) :
    forValidLanes c f m = (validLanes m c.cmLanes).foldl (fun m l => f l m) m :=
  foldl_filter_eq (fun m l => (laneAt m l).valid) (fun m l => f l m) _ m fun m l k => hf l m k

/-! ## The context map -/

theorem touch_fields (b k : Nat) (m : ContextMap) : touch b k m = { m with mru := (touch b k m).mru } := by
  unfold touch; dsimp only; split <;> rfl

@[simp] theorem slotAt_touch (b k : Nat) (m : ContextMap) (b' k' : Nat) : slotAt (touch b k m) b' k' = slotAt m b' k' := by
  rw [touch_fields]; rfl

/-- FIND touches the slot it returns, claimed or as it was; there is no third outcome. -/
theorem find_shape (n b : Nat) (chk : Half) (m : ContextMap) :
    (find n b chk m).2 = touch b (find n b chk m).1 m ∨
    (find n b chk m).2 = touch b (find n b chk m).1 (claim b (find n b chk m).1 chk m) := by
  unfold find
  split
  · exact .inl rfl
  · split
    · exact .inr rfl
    · exact .inr rfl

theorem find_fields (n b : Nat) (chk : Half) (m : ContextMap) :
    (find n b chk m).2 = { m with slots := (find n b chk m).2.slots, mru := (find n b chk m).2.mru } := by
  rcases find_shape n b chk m with h | h <;> (rw [h, touch_fields]; try rfl)

theorem lookup_fields (c : Cfg) (c0 : BitVec 9) (l : Nat) (m : ContextMap) :
    (lookup c c0 l m).2 = { m with slots := (lookup c c0 l m).2.slots, mru := (lookup c c0 l m).2.mru } :=
  find_fields _ _ _ m

theorem cmUpdate_fields (c : Cfg) (bpos : BitVec 3) (c0 : BitVec 9) (y : Bool) (l : Nat) (m : ContextMap) :
    cmUpdate c bpos c0 y l m = { m with
      slots := (cmUpdate c bpos c0 y l m).slots
      sm1 := (cmUpdate c bpos c0 y l m).sm1
      sm2 := (cmUpdate c bpos c0 y l m).sm2 } := by
  unfold cmUpdate
  dsimp only
  repeat' split
  all_goals rfl

theorem cmUpdateAll_fields (c : Cfg) (bpos : BitVec 3) (c0 : BitVec 9) (y : Bool) (m : ContextMap) :
    (cmUpdateAll c bpos c0 y m).lanes = m.lanes ∧ (cmUpdateAll c bpos c0 y m).mru = m.mru ∧
    (cmUpdateAll c bpos c0 y m).scale = m.scale := by
  refine forValidLanes_keeps (fun t => t.lanes = m.lanes ∧ t.mru = m.mru ∧ t.scale = m.scale) c _ m ⟨rfl, rfl, rfl⟩ ?_
  intro l t _ _ ht
  rw [cmUpdate_fields]
  exact ht

theorem cmRunUpdate_fields (byte : Byte) (l : Nat) (m : ContextMap) :
    cmRunUpdate byte l m = { m with slots := (cmRunUpdate byte l m).slots } := rfl

theorem laneAt_congr {m t : ContextMap} (h : t.lanes = m.lanes) (l : Nat) : laneAt t l = laneAt m l := by
  simp [laneAt, h]

@[simp] theorem laneAt_lookup (c : Cfg) (c0 : BitVec 9) (l : Nat) (m : ContextMap) (k : Nat) :
    laneAt (lookup c c0 l m).2 k = laneAt m k := laneAt_congr (by rw [lookup_fields]) k

/-- Resolving a lane moves its LANE_CUR and no other lane's registers. -/
theorem laneAt_resolveLane (c : Cfg) (c0 : BitVec 9) (l : Nat) (m : ContextMap) (k : Nat) :
    laneAt (resolveLane c c0 l m) k =
      if k = l ∧ l < m.lanes.length then { laneAt m k with cur := (lookup c c0 l m).1 } else laneAt m k := by
  have e : (lookup c c0 l m).2.lanes = m.lanes := by rw [lookup_fields]
  have hk := laneAt_lookup c c0 l m
  unfold resolveLane
  simp only [laneAt, setLane, e, List.getD_eq_getElem?_getD, List.getElem?_set] at hk ⊢
  by_cases h : k = l
  · subst h
    by_cases hl : k < m.lanes.length <;> simp [hl]
  · simp [h, Ne.symm h]

/-- Part 3 of UPDATE takes the lanes valid before it, in ascending order. -/
theorem cmUpdateAll_eq (s : State) (y : Bool) : cmUpdateAll s.cfg s.bpos s.c0 y s.cm = lanesTrained s y :=
  forValidLanes_eq _ _ _ fun l m k => by
    have e : (cmUpdate s.cfg s.bpos s.c0 y l m).lanes = m.lanes := by rw [cmUpdate_fields]
    rw [laneAt_congr e]

theorem cmResolve_eq (c : Cfg) (c0 : BitVec 9) (m : ContextMap) : cmResolve c c0 m = lanesResolved c c0 c.cmLanes m :=
  forValidLanes_eq _ _ _ fun l m k => by rw [laneAt_resolveLane]; split <;> rfl

theorem cmBoundary_eq (c : Cfg) (byte : Byte) (m : ContextMap) : cmBoundary c byte m = lanesClosed c byte m := by
  unfold cmBoundary lanesClosed
  rw [forValidLanes_eq c (cmRunUpdate byte) m fun l m k => rfl]

/-! ## The mixer -/

theorem trainBank_fields (pr : Prediction) (y : Bool) (m : Mixer) (j : Nat) :
    trainBank pr y m j = { m with weights := (trainBank pr y m j).weights } := by
  refine foldl_keeps (fun t => t = { m with weights := t.weights }) _ _ m rfl fun t k _ ht => ?_
  unfold trainWeight setWeight
  rw [ht]

theorem trainFirst_fields (pr : Prediction) (y : Bool) (m : Mixer) :
    trainFirst pr y m = { m with weights := (trainFirst pr y m).weights } := by
  refine foldl_keeps (fun t => t = { m with weights := t.weights }) _ _ m rfl fun t j _ ht => ?_
  rw [trainBank_fields, ht]

/-- Training writes the weights, the second-layer weights and MX_COUNT; nothing else. -/
theorem trainMixer_fields (pr : Prediction) (y : Bool) (m : Mixer) :
    trainMixer pr y m = { m with count := 0, weights := (trainMixer pr y m).weights, blend := (trainMixer pr y m).blend } := by
  unfold trainMixer trainSecond
  rw [trainFirst_fields]
  dsimp only
  split <;> rfl

@[simp] theorem trainMixer_blend_length (pr : Prediction) (y : Bool) (m : Mixer) :
    (trainMixer pr y m).blend.length = m.blend.length := by
  unfold trainMixer trainSecond
  rw [trainFirst_fields]
  dsimp only
  split <;> simp

/-! ## The DMC forest -/

@[simp] theorem dmcUpdateAll_length (c : Cfg) (y : Bool) (f : Forest) :
    (dmcUpdateAll c y f).insts.length = f.insts.length := by simp [dmcUpdateAll]

@[simp] theorem dmcBoundary_length (c : Cfg) (byte : Byte) (f : Forest) :
    (dmcBoundary c byte f).insts.length = f.insts.length := by simp [dmcBoundary]

theorem dmcUpdateAll_insts (c : Cfg) (y : Bool) (f : Forest) :
    (dmcUpdateAll c y f).insts = f.insts.mapIdx (dmcUpdate c y) := mapFrom_zero _ _

theorem dmcBoundary_insts (c : Cfg) (byte : Byte) (f : Forest) :
    (dmcBoundary c byte f).insts = f.insts.mapIdx (dmcByteReset c byte) := mapFrom_zero _ _

/-- Each instance is updated by itself alone. -/
theorem instAt_dmcUpdateAll (c : Cfg) (y : Bool) (f : Forest) (i : Nat) (h : i < f.insts.length) :
    instAt (dmcUpdateAll c y f) i = dmcUpdate c y i (instAt f i) := by
  simp [instAt, dmcUpdateAll, List.getD_eq_getElem?_getD, mapFrom_getElem, h]

theorem instAt_dmcBoundary (c : Cfg) (byte : Byte) (f : Forest) (i : Nat) (h : i < f.insts.length) :
    instAt (dmcBoundary c byte f) i = dmcByteReset c byte i (instAt f i) := by
  simp [instAt, dmcBoundary, List.getD_eq_getElem?_getD, mapFrom_getElem, h]

end Sys2Proof.Machine
end

