-- ==== Sys2Proof/Tests/Slice0.lean ====
section
/-! SUPPORT. The model's own tests: each check of WellFormed refuses a term, each command's word decodes, single steps give
the values of 95_test_vectors.md, and for each statement with hypotheses a state and operands that meet them. Every expected
value is the spec's; the file and the rule or vector stand beside it. -/

namespace Sys2Proof.Tests

open Sys2Proof Sys2Proof.Machine

-- one theorem at a time: many kernel evaluations at once need more threads than the check's memory holds
set_option Elab.async false

/-! ## Helpers -/

/-- The default configuration at LEVEL 1, which 95_test_vectors.md uses. -/
def cfg1 : Cfg := defaultCfg 1

/-- A predicate of the next state; false when there is none. -/
def holdsAfter (o : Host.Outcome State Fault Refusal) (p : State → Bool) : Bool :=
  match o with
  | .next t => p t
  | _ => false

/-- The state after commands run from reset (reset itself if one faults). -/
def ran (l : List Instr) : State := (runAll l State.reset).getD State.reset

/-- The reset state with one field of its configuration broken, or mended. -/
def withCfg (f : Cfg → Cfg) : State := State.resetWith (f cfg1)

theorem next_of_holds {o : Host.Outcome State Fault Refusal} {p : State → Bool} (h : holdsAfter o p = true) :
    ∃ t, o = .next t ∧ p t = true := by
  cases o with
  | next t => exact ⟨t, rfl, h⟩
  | fault r => cases h
  | refused r => cases h

/-! ## WellFormed refuses -/

/-- 00_scope.md R5: the defaults are accepted; a value on either side of each scalar range is refused. -/
theorem test_wf_scalars :
    cfg1.wf = true ∧ { cfg1 with level := 10 }.wf = false ∧
    { cfg1 with cmLog2b := 0 }.wf = false ∧ { cfg1 with cmLog2b := 29 }.wf = false ∧
    { cfg1 with cmSlots := 2 }.wf = false ∧ { cfg1 with cmSlots := 16 }.wf = false ∧
    { cfg1 with cmLanes := 0 }.wf = false ∧ { cfg1 with cmLanes := 33 }.wf = false ∧
    { cfg1 with mxMaxN := 0 }.wf = false ∧ { cfg1 with mxMaxN := 65536 }.wf = false ∧
    { cfg1 with mxNsel := 0 }.wf = false ∧ { cfg1 with mxNsel := 9 }.wf = false ∧
    { cfg1 with mxKsel := 0 }.wf = false ∧ { cfg1 with mxKsel := 65537 }.wf = false ∧
    { cfg1 with apmNctx := 0 }.wf = false ∧ { cfg1 with apmNctx := 65537 }.wf = false ∧
    { cfg1 with smRate := 0 }.wf = false ∧ { cfg1 with smRate := 16 }.wf = false := by decide +kernel

/-- 00_scope.md R5, R6: a capacity outside 2^16..2^28 or no power of two, a threshold or cap outside its range, and a list of
nine instances are refused. -/
theorem test_wf_dmc :
    capOk 65280 = false ∧ capOk 32768 = false ∧ capOk 65536 = true ∧ capOk 268435456 = true ∧ capOk 536870912 = false ∧
    { cfg1 with dmcCap := cfg1.dmcCap.set 9 65281 }.wf = false ∧
    { cfg1 with dmcThrInit := cfg1.dmcThrInit.set 0 0 }.wf = false ∧
    { cfg1 with dmcThrInit := cfg1.dmcThrInit.set 0 65536, dmcThrCap := cfg1.dmcThrCap.set 0 65536 }.wf = false ∧
    { cfg1 with dmcThrCap := cfg1.dmcThrCap.set 0 2047 }.wf = false ∧
    { cfg1 with dmcThrCap := cfg1.dmcThrCap.set 0 2147483648 }.wf = false ∧
    { cfg1 with dmcCap := cfg1.dmcCap.take 9 }.wf = false ∧ { cfg1 with dmcThrInit := cfg1.dmcThrInit.take 9 }.wf = false ∧
    { cfg1 with dmcThrCap := cfg1.dmcThrCap.take 9 }.wf = false ∧
    { cfg1 with dmcResettable := cfg1.dmcResettable.take 9 }.wf = false := by decide +kernel

/-- 42_bithistory.md R232, constraints 1 to 4. -/
theorem test_wf_bitHistory :
    bhTableOk [bhRow 0 0 0 1 1, bhRow 1 0 0 1 1] = true ∧ bhSizeOk [] = false ∧
    bhSizeOk (List.replicate 257 (bhRow 0 0 0 1 1)) = false ∧
    bhTableOk [bhRow 1 0 0 1 1, bhRow 1 0 0 1 1] = false ∧ bhTableOk [bhRow 0 0 1 1 1, bhRow 1 0 0 1 1] = false ∧
    bhTableOk [bhRow 0 0 0 0 1, bhRow 1 0 0 1 1] = false ∧ bhTableOk [bhRow 0 0 0 1 1, bhRow 1 0 0 1 2] = false ∧
    bhTableOk [bhRow 0 0 0 1 1, bhRow 0 0 0 1 1] = false := by decide +kernel

/-- 60_exceptions.md R404, the "range" column, at the last legal and the first illegal operand. -/
theorem test_operands_legal :
    ((Instr.encBit 1).operandsLegal cfg1 = true ∧ (Instr.encBit 2).operandsLegal cfg1 = false) ∧
    ((Instr.readReg 0x00D).operandsLegal cfg1 = true ∧ (Instr.readReg 0x00E).operandsLegal cfg1 = false) ∧
    ((Instr.cmSet 15 0).operandsLegal cfg1 = true ∧ (Instr.cmSet 16 0).operandsLegal cfg1 = false) ∧
    ((Instr.mxSelect 3 255).operandsLegal cfg1 = true ∧ (Instr.mxSelect 4 0).operandsLegal cfg1 = false ∧
      (Instr.mxSelect 0 256).operandsLegal cfg1 = false) ∧
    ((Instr.mxSetN 1024).operandsLegal cfg1 = true ∧ (Instr.mxSetN 1025).operandsLegal cfg1 = false) ∧
    ((Instr.mxSetActive 4).operandsLegal cfg1 = true ∧ (Instr.mxSetActive 0).operandsLegal cfg1 = false ∧
      (Instr.mxSetActive 5).operandsLegal cfg1 = false) ∧
    ((Instr.mxSetLr 255).operandsLegal cfg1 = true ∧ (Instr.mxSetLr 256).operandsLegal cfg1 = false) ∧
    ((Instr.apmSetCtx 1023).operandsLegal cfg1 = true ∧ (Instr.apmSetCtx 1024).operandsLegal cfg1 = false) ∧
    ((Instr.apmSetRate 15).operandsLegal cfg1 = true ∧ (Instr.apmSetRate 0).operandsLegal cfg1 = false ∧
      (Instr.apmSetRate 16).operandsLegal cfg1 = false) ∧
    ((Instr.apmEnable 1).operandsLegal cfg1 = true ∧ (Instr.apmEnable 2).operandsLegal cfg1 = false) := by decide +kernel

/-- 10_state.md R53: with MX_NSEL = 4 the last selector is 0x03B; each range ends where the rule says. -/
theorem test_defined_registers :
    ([0x00D, 0x010, 0x018, 0x020, 0x023, 0x030, 0x034, 0x038, 0x03B, 0x040, 0x042, 0x048, 0x04A, 0x050, 0x060, 0x069, 0x0E9].all
      fun k => cfg1.definesReg k) = true ∧
    ([0x00E, 0x00F, 0x019, 0x024, 0x035, 0x037, 0x03C, 0x043, 0x04B, 0x051, 0x05F, 0x06A, 0x0DA, 0x0EA, 0x0FF, 0xFFFF].any
      fun k => cfg1.definesReg k) = false := by decide +kernel

/-! ## Every command's word decodes (30_encoding.md R133, R135) -/

theorem test_decode_system :
    decode [0x00000000] = .command .nop ∧ decode [0x01000000] = .command .startEnc ∧
    decode [0x02000000] = .command .startDec ∧ decode [0x03000000] = .command .flush ∧
    decode [0x04000000] = .command .stop ∧ decode [0x05000001] = .command (.encBit 1) ∧
    decode [0x06000000] = .command .decBit ∧ decode [0x07000000] = .command .peekP ∧
    decode [0x080000D9] = .command (.readReg 0x00D9) ∧ decode [0x10000064] = .command (.bhQuery 100) := by decide +kernel

theorem test_decode_units :
    decode [0x20000002, 0x00000041, 0x00000001] = .command (.cmSet 2 0x0000000100000041) ∧
    decode [0x21000000] = .command .cmMix ∧ decode [0x22000200] = .command (.cmSetScale 512) ∧
    decode [0x3000FE0C] = .command (.mxAdd 0xFE0C) ∧ decode [0x31010005] = .command (.mxSelect 1 5) ∧
    decode [0x3200002F] = .command (.mxSetN 47) ∧ decode [0x33000002] = .command (.mxSetActive 2) ∧
    decode [0x340000FF] = .command (.mxSetLr 255) ∧ decode [0x35000080] = .command (.mxSetScale 128) ∧
    decode [0x38000003] = .command (.apmSetCtx 3) ∧ decode [0x39000001] = .command (.apmSetRate 1) ∧
    decode [0x3A000000] = .command (.apmEnable 0) ∧ decode [0x40000000] = .command .dmcMix ∧
    decode [0x41000100] = .command (.dmcSetScale 256) := by decide +kernel

/-- 30_encoding.md R136, 60_exceptions.md R404: a set reserved bit at either end of each reserved field. -/
theorem test_decode_reserved :
    decode [0x00000001] = .reserved 0x00000001 ∧ decode [0x01800000] = .reserved 0x01800000 ∧
    decode [0x05010000] = .reserved 0x05010000 ∧ decode [0x05800000] = .reserved 0x05800000 ∧
    decode [0x10000100] = .reserved 0x10000100 ∧ decode [0x20000100, 0, 0] = .reserved 0x20000100 ∧
    decode [0x20800000, 0, 0] = .reserved 0x20800000 ∧ decode [0x42000000] = .illegal 0x42000000 ∧
    decode [0x20000000, 0] = .incomplete ∧ decode [] = .incomplete := by decide +kernel

/-- spec/opcode_table.json numbers P0 as bits 63..32 and P1 as bits 95..64 of CM_SET. -/
theorem test_decode_table_word :
    decodeTableWord 96 0x000000010000004120000002 = some (.cmSet 2 0x0000000100000041) ∧
    decodeTableWord 32 0x20000002 = some (.cmSet 2 0) ∧ decodeTableWord 32 0x31010005 = some (.mxSelect 1 5) := by decide +kernel

/-- 30_encoding.md R139, R140: the example line, a comment, a signed operand and a pseudo-instruction. -/
theorem test_assembler :
    assembleWords "CM_SET 2, 0x0000000100000041" = some [0x20000002, 0x00000041, 0x00000001] ∧
    assembleWords "MX_ADD -500 ; a host input" = some [0x3000FE0C] ∧
    assembleWords "ENCB 1" = some [0x21000000, 0x40000000, 0x05000001] ∧ assembleWords "MX_ADDP 4095" = some [0x300007C0] ∧
    assembleWords "ENC_BIT" = none := by decide +kernel

/-- The choices of log 14: a tab, a `+`, `0X`, a lower-case mnemonic and an empty operand are refused; spaces are skipped, and a
hexadecimal digit may be of either case. -/
theorem test_assembler_choices :
    (["ENC_BIT\t1", "ENC_BIT 1\t", "MX_ADD +5", "MX_ADD -0x5", "MX_ADD - 5", "READ_REG 0XD9", "READ_REG 0x", "enc_bit 1", "MX_SELECT 1,"].all
      fun l => (assembleWords l).isNone) = true ∧
    assembleWords "  MX_SELECT  1 ,  5  " = some [0x31010005] ∧ assembleWords "READ_REG 0xd9" = some [0x080000D9] ∧
    assembleWords " ; no command" = some [] := by decide +kernel

/-! ## Single steps (95_test_vectors.md) -/

/-- 2.8: NOP consumes its word and appends nothing. -/
theorem test_nop : holdsAfter (step (State.reset.withFetchWord 32 0x00000000)) (fun t => t == State.reset) = true := by
  decide +kernel

/-- 2.5: with MX_ACTIVE = 2, START_ENC sets every F[j] to 32768. -/
theorem test_startEnc :
    holdsAfter (exec .startEnc (ran [.mxSetActive 2]))
      (fun t => t.mode == .enc && t.coder.x2 == 0xFFFFFFFF && t.mixer.blend == [32768, 32768, 32768, 32768]) = true := by
  decide +kernel

/-- 2.2.2: START_DEC with `bd ee af 38` pushed. -/
theorem test_startDec :
    holdsAfter (exec .startDec { State.reset with ports := { emptyPorts with archIn := [0xBD, 0xEE, 0xAF, 0x38], eos := true } })
      (fun t => t.mode == .dec && t.coder.x == 0xBDEEAF38 && t.inCnt == 4) = true := by decide +kernel

/-- 20_memory.md R104: with EOS = 1 and one byte, three bytes of padding, not counted. -/
theorem test_startDec_padding :
    holdsAfter (exec .startDec { State.reset with ports := { emptyPorts with archIn := [0xBD], eos := true } })
      (fun t => t.coder.x == 0xBD000000 && t.inCnt == 1) = true := by decide +kernel

/-- 2.2.1: FLUSH writes X1 most significant byte first. -/
theorem test_flush :
    holdsAfter (exec .flush { State.reset with mode := .enc, coder := { freshCoder with x1 := 0xBDEEAF38 } })
      (fun t => t.mode == .idle && t.ports.archOut == [0xBD, 0xEE, 0xAF, 0x38] && t.outCnt == 4) = true := by decide +kernel

/-- 41_coder.md R209. -/
theorem test_stop :
    holdsAfter (exec .stop { State.reset with mode := .dec, ports := { emptyPorts with archIn := [1, 2], eos := true } })
      (fun t => t.mode == .idle && t.ports == emptyPorts) = true := by decide +kernel

/-- 41_coder.md R206's example, its first ENC_BIT, and 2.7.1: the DMC node and state map it trains. -/
theorem test_encBit_one :
    holdsAfter (exec (.encBit 1) (ran [.apmEnable 0, .startEnc]))
      (fun t => t.coder.x1 == 0 && t.coder.x2 == 0x7FEFF801 && t.ports.archOut == [] && t.c0 == 3 && t.bitCnt == 1 &&
        nodeAt (instAt t.dmc 0) 0 == ⟨1008, 2032, 1, 2, 1⟩ && smdAt (instAt t.dmc 0) 0 == 33791 && (instAt t.dmc 0).curr == 2)
      = true := by decide +kernel

/-- 41_coder.md R206's example, its second ENC_BIT. -/
theorem test_encBit_zero :
    holdsAfter (exec (.encBit 0) (ran [.apmEnable 0, .startEnc, .encBit 1]))
      (fun t => t.coder.x1 == 0x3FEFF902 && t.coder.x2 == 0x7FEFF801 && t.c0 == 6 && t.coder.lastP == 2047) = true := by
  decide +kernel

/-- 2.2.2: the first bit of the archive `bd ee af 38`, with the APM off. -/
theorem test_decBit :
    holdsAfter (exec .decBit { State.reset with mode := .dec, apm := { resetApm with enabled := false }
                                                coder := { freshCoder with x := 0xBDEEAF38 } })
      (fun t => t.ports.result == [0] && t.coder.x1 == 0x7FEFF802 && t.coder.x2 == 0xFFFFFFFF) = true := by decide +kernel

/-- 2.2.5: DEC_BIT waits when a byte is called for and there is none. -/
theorem test_decBit_waits :
    holdsAfter (exec .decBit { State.reset with mode := .dec, coder := { x1 := 0x12000000, x2 := 0x12FFFFFF, x := 0x12000000, lastP := 0 } })
      (fun t => t.bitCnt == 0 && t.ports.result == []) = true := by decide +kernel

/-- 2.6: with the defaults p_final = 2047 and p_mix = 2047. -/
theorem test_peekP :
    holdsAfter (exec .peekP (ran [.startEnc])) (fun t => t.ports.result == [0x07FF07FF]) = true := by decide +kernel

/-- 2.8: READ_REG 0x0D9 and 0x0B8 at LEVEL 1. -/
theorem test_readReg :
    holdsAfter (exec (.readReg 0x0D9) State.reset) (fun t => t.ports.result == [0x10000]) = true ∧
    holdsAfter (exec (.readReg 0x0B8) State.reset) (fun t => t.ports.result == [0x40000]) = true := by decide +kernel

/-- 2.3: BH_QUERY 100 and the unused code 255. -/
theorem test_bhQuery :
    holdsAfter (exec (.bhQuery 100) State.reset) (fun t => t.ports.result == [0x03074166]) = true ∧
    holdsAfter (exec (.bhQuery 255) State.reset) (fun t => t.ports.result == [0x00000102]) = true := by decide +kernel

/-- 2.4.1 with CM_LOG2B = 11, 2.4.2: the lane's slot after `CM_SET 0, 0x41`. -/
theorem test_cmSet :
    holdsAfter (exec (.cmSet 0 0x41) (ran [.startEnc]))
      (fun t => laneAt t.cm 0 == ⟨true, 0x41, ⟨0x4EC, 0⟩, ⟨0x4EC, 0⟩⟩ && (slotAt t.cm 0x4EC 0).chk == 0x4789 &&
        mruAt t.cm 0x4EC == ⟨0, 15⟩) = true := by decide +kernel

/-- 2.4.4, byte 1, bit 0: the inputs of a lane whose slot is [2, 1, 0, 1, 0x41, 0, 0]. -/
theorem test_cmMix :
    holdsAfter (exec .cmMix { ran [.mxSetN 48, .startEnc] with
        cm := { setSlot (resetCm cfg1) 5 0 ⟨0x4789, 2, 1, 0, 1, 0x41, 0, 0⟩ with lanes := [⟨true, 0x41, ⟨5, 0⟩, ⟨5, 0⟩⟩] } })
      (fun t => t.mixer.count == 48 && t.mixer.inputs.take 4 == [0, BitVec.ofInt 16 (-128), 0, 0]) = true := by decide +kernel

/-- 43_contextmap.md R265. -/
theorem test_cmSetScale : holdsAfter (exec (.cmSetScale 512) State.reset) (fun t => t.cm.scale == 512) = true := by
  decide +kernel

/-- 2.5: MX_ADD -500. -/
theorem test_mxAdd :
    holdsAfter (exec (.mxAdd 0xFE0C) (ran [.mxSetN 1, .startEnc]))
      (fun t => t.mixer.count == 1 && (inputAt t.mixer 0).toInt == -500) = true := by decide +kernel

/-- 2.5: the first training step of the source's mixer scenario: 0 becomes 434. -/
theorem test_mixer_trains :
    holdsAfter (exec (.encBit 1) (ran [.mxSetN 1, .startEnc, .mxAdd 1984])) (fun t => weightAt t.mixer 0 0 0 == 434) = true := by
  decide +kernel

/-- 2.6: APM_SETRATE 1, APM_SETCTX 3: A[3][16] becomes 49143. -/
theorem test_apm_trains :
    holdsAfter (exec (.encBit 1) (ran [.apmSetRate 1, .apmSetCtx 3, .startEnc]))
      (fun t => apmAt t.apm 3 16 == 49143 && apmAt t.apm 0 16 == 32752) = true := by decide +kernel

/-- 44_mixer_apm.md R302, R310 to R313: the control registers, from the commands' words. -/
theorem test_mixer_controls :
    holdsAfter (step (State.reset.withFetchWord 32 0x31010005)) (fun t => t.mixer.sel == [0, 5, 0, 0]) = true ∧
    holdsAfter (step (State.reset.withFetchWord 32 0x3200002F)) (fun t => t.mixer.n == 47) = true ∧
    holdsAfter (step (State.reset.withFetchWord 32 0x33000002)) (fun t => t.mixer.active == 2) = true ∧
    holdsAfter (step (State.reset.withFetchWord 32 0x340000FF)) (fun t => t.mixer.lr == 255) = true ∧
    holdsAfter (step (State.reset.withFetchWord 32 0x35000080)) (fun t => t.mixer.scale == 128) = true := by decide +kernel

/-- 44_mixer_apm.md R314 to R316. -/
theorem test_apm_controls :
    holdsAfter (step (State.reset.withFetchWord 32 0x38000003)) (fun t => t.apm.ctx == 3) = true ∧
    holdsAfter (step (State.reset.withFetchWord 32 0x39000001)) (fun t => t.apm.rate == 1) = true ∧
    holdsAfter (step (State.reset.withFetchWord 32 0x3A000000)) (fun t => !t.apm.enabled) = true := by decide +kernel

/-- 2.7.1: the ten inputs after START_ENC are 0. -/
theorem test_dmcMix :
    holdsAfter (exec .dmcMix (ran [.mxSetN 10, .startEnc]))
      (fun t => t.mixer.count == 10 && t.mixer.inputs == List.replicate 10 0) = true := by decide +kernel

/-- 45_dmc.md R363. -/
theorem test_dmcSetScale : holdsAfter (exec (.dmcSetScale 512) State.reset) (fun t => t.dmc.scale == 512) = true := by
  decide +kernel

/-- 2.9: E_RESV before E_MODE, E_PHASE before E_RANGE, E_MODE before E_RANGE; a header of 20000100 takes its payload. -/
theorem test_fault_order :
    holdsAfter (step (State.reset.withFetchWord 32 0x06000001)) (fun t => t.errCode == .resv && t.errCmd == 0x06000001 && t.halt) = true ∧
    holdsAfter (exec (.cmSet 200 1) { State.reset with mode := .enc, bpos := 3, c0 := 15 }) (fun t => t.errCode == .phase) = true ∧
    holdsAfter (exec (.encBit 2) State.reset) (fun t => t.errCode == .mode) = true ∧
    holdsAfter (step { State.reset with ports := { emptyPorts with cmd := [0x20000100, 7, 8, 9] } })
      (fun t => t.errCode == .resv && t.ports.cmd == [9]) = true := by decide +kernel

/-- 2.7.2: the first clone of instance 0, from the two nodes' contents before it. -/
theorem test_dmc_clone :
    let d : DmcInst := { freshInst (defaultCfg 0) 0 with
      curr := 25420
      nodes := [(24735, ⟨5911, 948, 24736, 24737, 30⟩), (25420, ⟨993, 3025, 24480, 24735, 0⟩)] }
    let z := dmcUpdate (defaultCfg 0) true 0 d
    (nodeAt z 65280 == ⟨2606, 418, 24736, 24737, 30⟩ && (nodeAt z 24735).c0 == 3305 && (nodeAt z 24735).c1 == 530 &&
      (nodeAt z 25420).nx1 == 65280 && z.thr == 2049 && z.curr == 65280) = true := by decide +kernel

/-- 2.4.3, step 7: a full bucket, MRU pair (6, 5): the victim is slot 0. -/
theorem test_find_victim :
    let m : ContextMap := { resetCm cfg1 with
      slots := (List.range 7).map fun k => (slotKey 3 k, ⟨BitVec.ofNat 16 (100 + k), 2, 0, 0, 0, 0, 0, 0⟩)
      mru := [(3, ⟨6, 5⟩)] }
    let r := find 7 3 0xDDA1 m
    (r.1 == 0 && (slotAt r.2 3 0).chk == 0xDDA1 && (slotAt r.2 3 0).b0 == 0 && mruAt r.2 3 == ⟨0, 6⟩) = true := by decide +kernel

/-! ## For each statement with hypotheses, a state and operands that meet them -/

/-- The reset state with words at the command port. -/
def withWords (ws : List Word) : State := { State.reset with ports := { emptyPorts with cmd := ws } }

/-- A decoding state with a window, bounds and archive bytes. -/
def decoding (x1 x2 x : Word) (archIn : List Byte) (eos : Bool) : State :=
  { State.reset with mode := .dec, coder := ⟨x1, x2, x, 0⟩, ports := { emptyPorts with archIn := archIn, eos := eos } }

/-- An encoding state at a bit position. -/
def encodingAt (bpos : BitVec 3) (c0 : BitVec 9) : State := { State.reset with mode := .enc, bpos := bpos, c0 := c0 }

/-- The position invariant, evaluated. -/
def positionOk (s : State) : Bool :=
  decide (2 ^ s.bpos.toNat ≤ s.c0.toNat) && decide (s.c0.toNat < 2 ^ (s.bpos.toNat + 1)) &&
  decide (s.coder.x1.toNat < s.coder.x2.toNat) && decide (topByte s.coder.x1 ≠ topByte s.coder.x2)

theorem positionInv_of {s : State} (h : positionOk s = true) : PositionInv s := by
  simp only [positionOk, Bool.and_eq_true, decide_eq_true_eq] at h
  exact ⟨h.1.1.1, h.1.1.2, h.1.2, h.2⟩

theorem witness_DecodedCommandIsItsEncoding : decode [0x20000002, 0x00000041, 1, 7] = .command (.cmSet 2 0x100000041) := by
  decide +kernel

/-- Each clause, and the opcodes at the ends of R136's ranges with their legal neighbours. -/
theorem witness_RejectedHeadersFault :
    ([0x09000000, 0x20000100, 0x05000001].all fun h => (withWords [h, 1, 2]).cfg.wf && !(withWords [h, 1, 2]).halt) = true ∧
    illegalOp (opOf 0x09000000).toNat = true ∧
    (illegalOp (opOf 0x20000100).toNat = false ∧ wordsOf 0x20000100 ≤ [1, 2].length + 1 ∧
      (0x20000100 : Word) &&& reservedBitsOf (opOf 0x20000100).toNat ≠ 0) ∧
    (illegalOp (opOf 0x05000001).toNat = false ∧ wordsOf 0x05000001 ≤ [1, 2].length + 1 ∧
      (0x05000001 : Word) &&& reservedBitsOf (opOf 0x05000001).toNat = 0) ∧
    ([0x09, 0x0F, 0x11, 0x1F, 0x23, 0x2F, 0x36, 0x37, 0x3B, 0x3F, 0x42, 0xFF].all illegalOp) = true ∧
    ([0x00, 0x08, 0x10, 0x20, 0x22, 0x30, 0x35, 0x38, 0x3A, 0x40, 0x41].any illegalOp) = false := by decide +kernel

theorem witness_StepRunsDecodedCommand :
    (withWords [0x05000001]).cfg.wf = true ∧ (withWords [0x05000001]).halt = false ∧
    decode (withWords [0x05000001]).ports.cmd = .command (.encBit 1) := by decide +kernel

theorem witness_HaltedOrWaitingCoreTakesNothing :
    ({ State.reset with halt := true }.cfg.wf = true ∧ { State.reset with halt := true }.halt = true) ∧
    ((withWords [0x20000000, 1]).cfg.wf = true ∧ decode (withWords [0x20000000, 1]).ports.cmd = .incomplete) := by decide +kernel

theorem witness_ConstructionRefusesIllFormedConfig :
    { cfg1 with cmLanes := 33 }.wf = false ∧ (withCfg fun c => { c with cmLanes := 33 }).cfg = { cfg1 with cmLanes := 33 } ∧
    cfg1.wf = true ∧ (defaultCfg 9).wf = true ∧ (defaultCfg 10).wf = false := by decide +kernel

theorem witness_StepAlwaysHasNextState : State.reset.cfg.wf = true := by decide +kernel

/-- Each code of the first clause, a command that runs, and one that waits. -/
theorem witness_ChecksDecideEveryCommand :
    expectedError .flush State.reset = some .mode ∧ expectedError (.cmSet 0 0) (encodingAt 1 2) = some .phase ∧
    expectedError (.encBit 2) (encodingAt 0 1) = some .range ∧ expectedError (.mxAdd 1) (encodingAt 0 1) = some .ovf ∧
    expectedError .peekP (ran [.mxSetN 1, .startEnc]) = some .count ∧
    (expectedError (.encBit 1) (encodingAt 0 1) = none ∧
      available (bytesNeeded (encodingAt 0 1) (.encBit 1)) (encodingAt 0 1) = true) ∧
    (expectedError .startDec State.reset = none ∧ available (bytesNeeded State.reset .startDec) State.reset = false) := by
  decide +kernel

theorem witness_ModeChangesOnlyAlongTheGraph :
    holdsAfter (step (withWords [0x01000000])) (fun t => t.mode == .enc) = true ∧
    holdsAfter (step { withWords [0x02000000] with ports := ⟨[0x02000000], [], [], true, []⟩ }) (fun t => t.mode == .dec) = true ∧
    holdsAfter (step { withWords [0x03000000] with mode := .enc }) (fun t => t.mode == .idle) = true ∧
    holdsAfter (step { withWords [0x04000000] with mode := .dec }) (fun t => t.mode == .idle) = true := by decide +kernel

/-- The first and the last index of each clause, with the values of 45_dmc.md R352 and 2.6. -/
theorem witness_ResetValues :
    (3 < cfg1.mxNsel ∧ 32 < 33 ∧ 15 < cfg1.cmLanes ∧ 9 < dmcN) ∧
    ((apmAt State.reset.apm 5 0).toNat = 16 ∧ (apmAt State.reset.apm 5 32).toNat = 65504) ∧
    (nodeAt (instAt State.reset.dmc 9) (255 * 255 + 126) = ⟨1024, 1024, 65278, 65279, 0⟩ ∧
      nodeAt (instAt State.reset.dmc 9) (255 * 255 + 127) = ⟨1024, 1024, 0, 255, 0⟩ ∧
      nodeAt (instAt State.reset.dmc 9) (255 * 255 + 254) = ⟨1024, 1024, 64770, 65025, 0⟩ ∧
      nodeAt (instAt State.reset.dmc 9) 65280 = ⟨0, 0, 0, 0, 0⟩) := by decide +kernel

theorem witness_HostPortsKeepOrder :
    (decoding 0 1 0 [] true).ports.eos = true ∧ State.reset.ports.eos = false ∧
    { emptyPorts with result := [5, 6] }.result = (5 : Word) :: [6] ∧ State.reset.ports.result = [] ∧
    { emptyPorts with archOut := [5, 6] }.archOut = (5 : Byte) :: [6] ∧ State.reset.ports.archOut = [] := by decide +kernel

theorem witness_ResultPortGrowsByQueriesAlone :
    holdsAfter (exec .peekP (encodingAt 0 1)) (fun t => t.ports.result.length == 1) = true ∧
    holdsAfter (exec .nop State.reset) (fun t => t.ports.result == []) = true := by decide +kernel

theorem witness_StartEncInitialisesTheModel : State.reset.mode = .idle ∧ (encodingAt 0 1).mode ≠ .idle := by decide +kernel

/-- Four bytes, fewer with EOS, fewer without. -/
theorem witness_StartDecReadsTheWindow :
    (encodingAt 0 1).mode ≠ .idle ∧
    (let s (l : List Byte) (e : Bool) := { State.reset with ports := { emptyPorts with archIn := l, eos := e } }
     ((s [1, 2, 3, 4] false).mode = .idle ∧ available 4 (s [1, 2, 3, 4] false) = true) ∧
     available 4 (s [1] true) = true ∧ available 4 (s [1, 2, 3] false) = false) := by decide +kernel

/-- Both bits, and each place in a byte that a clause names: its last bit, the bits before positions 2 and 5, another. -/
theorem witness_EncBitCodesAndTrains :
    ((0 : Half).toNat ≤ 1 ∧ (1 : Half).toNat ≤ 1) ∧
    (∀ s ∈ [encodingAt 0 1, encodingAt 1 3, encodingAt 4 31, encodingAt 7 255], s.mode = .enc ∧ s.mixer.count = s.mixer.n) ∧
    (encodingAt 7 255).bpos = 7 ∧ (encodingAt 1 3).bpos = 1 ∧ (encodingAt 4 31).bpos = 4 ∧
    ((encodingAt 0 1).bpos ≠ 7 ∧ (encodingAt 0 1).bpos ≠ 1 ∧ (encodingAt 0 1).bpos ≠ 4) := by decide +kernel

/-- One settled byte is called for: it is there, it is padding, or the command waits. -/
theorem witness_DecBitDecodesAndTrains :
    let s (l : List Byte) (e : Bool) := decoding 0x12000000 0x12FFFFFF 0x12000000 l e
    ((s [5] false).mode = .dec ∧ (s [5] false).mixer.count = (s [5] false).mixer.n) ∧
    decBitNeed (s [5] false) = 1 ∧ available 1 (s [5] false) = true ∧ available 1 (s [] true) = true ∧
    available 1 (s [] false) = false ∧
    (∀ b ∈ [(1 : BitVec 3), 4, 7], let u := { s [5] false with bpos := b }
      u.mode = .dec ∧ u.mixer.count = u.mixer.n ∧ u.bpos = b ∧ available (decBitNeed u) u = true) := by decide +kernel

/-- A state whose next bit brings BPOS to 2, with lane 0 valid and lane 1 not. -/
def resolving : State := ran [.startEnc, .cmSet 0 0x41, .encBit 0]

/-- A state whose next bit brings BPOS to 5, with lanes 0 and 1 valid. -/
def resolvingTwo : State := ran [.startEnc, .cmSet 0 0x41, .cmSet 1 0x41, .encBit 0, .encBit 1, .encBit 0, .encBit 1]

/-- The eighth bit, bits that resolve valid lanes again at 2 and at 5, and one that does not; ENC_BIT and DEC_BIT. -/
theorem witness_CodingAdvancesThePosition :
    (∀ s ∈ [encodingAt 7 255, encodingAt 1 3, resolving, resolvingTwo, encodingAt 0 1], PositionInv s) ∧
    ([encodingAt 7 255, encodingAt 1 3, resolving, resolvingTwo, encodingAt 0 1].all fun s =>
      s.cm.lanes.length == s.cfg.cmLanes && expectedError (.encBit 1) s == none && available (bytesNeeded s (.encBit 1)) s &&
      holdsAfter (exec (.encBit 1) s) (fun _ => true)) = true ∧
    (resolving.bpos = 1 ∧ (laneAt resolving.cm 0).valid = true ∧ (laneAt resolving.cm 1).valid = false) ∧
    (resolvingTwo.bpos = 4 ∧ (laneAt resolvingTwo.cm 0).valid = true ∧ (laneAt resolvingTwo.cm 1).valid = true) ∧
    PositionInv (decoding 0 0xFFFFFFFF 5 [] true) ∧
    (let s := decoding 0 0xFFFFFFFF 5 [] true
     decBitOf s = true ∧ expectedError .decBit s = none ∧ available (bytesNeeded s .decBit) s = true ∧
     holdsAfter (exec .decBit s) (fun _ => true) = true) := by
  refine ⟨?_, by decide +kernel, by decide +kernel, by decide +kernel, positionInv_of (by decide +kernel), by decide +kernel⟩
  intro s hs
  have h : ([encodingAt 7 255, encodingAt 1 3, resolving, resolvingTwo, encodingAt 0 1].all positionOk) = true := by
    decide +kernel
  exact positionInv_of (List.all_eq_true.mp h s hs)

/-- Lane 0 is valid, lane 1 is not, and bucket 5 is none of lane 0's. -/
theorem witness_CodingLeavesOtherContexts :
    let s := ran [.startEnc, .cmSet 0 0x41]
    s.cfg.wf = true ∧ holdsAfter (exec (.encBit 1) s) (fun _ => true) = true ∧ (laneAt s.cm 0).valid = true ∧ (laneAt s.cm 1).valid = false ∧
    (∀ l, l < s.cfg.cmLanes → (laneAt s.cm l).valid = true →
      5 ≠ (laneAt s.cm l).h0.bucket.toNat ∧ 5 ≠ (laneAt s.cm l).cur.bucket.toNat ∧
      ∀ y, 5 ≠ (hash s.cfg.cmLog2b (laneAt s.cm l).fp l ((s.c0 <<< 1) ||| BitVec.ofNat 9 (bitNat y))).1.toNat) := by
  decide +kernel

/-- An encoder whose next ENC_BIT 1 settles the byte 0x12. -/
def followE : State :=
  { State.reset with mode := .enc, apm := { resetApm with enabled := false }, coder := ⟨0x12000000, 0x12FFFFFF, 0, 0⟩ }

/-- A decoder of the archive 12 00 00 00 05, in the same model state. -/
def followD : State :=
  { followE with mode := .dec, coder := ⟨0x12000000, 0x12FFFFFF, 0x12000000, 0⟩, ports := { emptyPorts with archIn := [5] } }

theorem witness_DecoderFollowsEncoderStep :
    SameModel followE followD ∧
    (let z : List Byte := [0x12, 0, 0, 0, 5]
     (followE.mode = .enc ∧ followD.mode = .dec ∧ (1 : Half).toNat ≤ 1 ∧ followE.mixer.count = followE.mixer.n ∧
      followE.coder.x1.toNat < followE.coder.x2.toNat) ∧
     holdsAfter (exec (.encBit 1) followE) (fun t => t.ports.archOut == followE.ports.archOut ++ [0x12] &&
       decide (t.coder.x1.toNat ≤ (archiveWindow (z.drop 1)).toNat) &&
       decide ((archiveWindow (z.drop 1)).toNat ≤ t.coder.x2.toNat)) = true ∧
     (z.take 1 = [0x12] ∧ 4 + 1 ≤ z.length ∧ followD.coder.x = archiveWindow z ∧ followD.ports.archIn = z.drop 4)) :=
  ⟨⟨rfl, rfl, rfl, rfl, rfl, rfl, rfl, rfl, rfl, rfl, rfl, rfl⟩, by decide +kernel⟩

theorem witness_DecodeOfEncodeReturnsTheBits :
    cfg1.wf = true ∧ [Instr.apmEnable 0, .mxSetN 1].all isModelCommand = true ∧
    [Instr.mxAdd 5, .encBit 0, .mxAdd 7, .encBit 1].all isModelCommand = true ∧
    (runAll ([.apmEnable 0, .mxSetN 1] ++ [.startEnc] ++ [.mxAdd 5, .encBit 0, .mxAdd 7, .encBit 1] ++ [.flush])
      (State.resetWith cfg1)).isSome = true := by decide +kernel

/-- The least and the greatest p, and the narrowest interval. -/
theorem witness_SplitStaysInsideTheInterval :
    ((0 : Word).toNat < (0xFFFFFFFF : Word).toNat ∧ 1 ≤ 1 ∧ 4094 ≤ 4094) ∧ (5 : Word).toNat < (6 : Word).toNat ∧
    splitPoint 0 0xFFFFFFFF 1 = 0xFFFFF ∧ splitPoint 0 0xFFFFFFFF 4094 = 0xFFDFF002 ∧ splitPoint 5 6 4094 = 5 := by
  decide +kernel

theorem witness_NormalisationSettlesSharedBytes :
    (7 : Word).toNat ≤ (7 : Word).toNat ∧ normalise 7 7 = ([0, 0, 0, 7], 0, 0xFFFFFFFF) := by decide +kernel

theorem witness_PeekPReportsThePrediction :
    State.reset.mode = .idle ∧
    ((ran [.mxSetN 1, .startEnc]).mode ≠ .idle ∧ (ran [.mxSetN 1, .startEnc]).mixer.count ≠ (ran [.mxSetN 1, .startEnc]).mixer.n) ∧
    ((encodingAt 0 1).mode ≠ .idle ∧ (encodingAt 0 1).mixer.count = (encodingAt 0 1).mixer.n) := by decide +kernel

theorem witness_ReadRegReturnsTheRegister :
    cfg1.definesReg (0x00D : Half).toNat = true ∧ cfg1.definesReg (0x00E : Half).toNat = false ∧
    cfg1.definesReg (0x03B : Half).toNat = true ∧ cfg1.definesReg (0x03C : Half).toNat = false := by decide +kernel

theorem witness_RegisterIndicesAreExactlyThoseListed : State.reset.cfg.wf = true := by decide +kernel

theorem witness_RegisterMapValues : State.reset.cfg.wf = true ∧ 3 < State.reset.cfg.mxNsel ∧ 9 < dmcN := by decide +kernel

/-- The last used code and the first unused one. -/
theorem witness_BhQueryReturnsTheRow :
    State.reset.cfg.bhTable = defaultBhTable ∧
    (State.reset.cfg.bhTable[(238 : Byte).toNat]? = some (bhRow 26 0 0 238 169)) ∧
    (State.reset.cfg.bhTable[(239 : Byte).toNat]? = none ∧ State.reset.cfg.bhTable.head? = some (bhRow 0 0 0 2 1)) := by
  decide +kernel

theorem witness_DefaultTableFollowsGenerationRule : (238 : Byte).toNat < 239 ∧ (237 : Byte).toNat < 238 := by decide

/-- Each fault, and the last lane. -/
theorem witness_CmSetPointsTheLaneAtItsSlot :
    State.reset.mode = .idle ∧ ((encodingAt 1 2).mode ≠ .idle ∧ (encodingAt 1 2).bpos ≠ 0) ∧
    ((encodingAt 0 1).mode ≠ .idle ∧ (encodingAt 0 1).bpos = 0 ∧ (encodingAt 0 1).cfg.cmLanes ≤ (16 : Byte).toNat) ∧
    ((15 : Byte).toNat < (encodingAt 0 1).cfg.cmLanes ∧ (encodingAt 0 1).cm.lanes.length = (encodingAt 0 1).cfg.cmLanes) := by
  decide +kernel

/-- Just enough room, and one input short, with a valid lane and a lane that is not; each case of the run's candidate after a
first bit 1 (0x80 agrees, 0x7F does not). -/
theorem witness_CmMixPushesEveryLane :
    (let t (r b4 b5 b6 : Byte) : Slot := ⟨0, 2, 1, 0, r, b4, b5, b6⟩
     let fits (b : Byte) : Bool := (256 + b.toNat) / 2 ^ (8 - (1 : BitVec 3).toNat) == (3 : BitVec 9).toNat
     (t 0 0x80 0 0).b3 = 0 ∧ ((t 1 0x80 0 0).b3 ≠ 0 ∧ fits (t 1 0x80 0 0).b4 = true) ∧
     (fits (t 1 0x7F 0xFF 0).b4 = false ∧ fits (t 1 0x7F 0xFF 0).b5 = true) ∧
     (fits (t 1 0x7F 0 0x80).b5 = false ∧ fits (t 1 0x7F 0 0x80).b6 = true) ∧ fits (t 1 0x7F 0 0).b6 = false) ∧
    (laneAt (ran [.mxSetN 48, .startEnc, .cmSet 0 0x41]).cm 0).valid = true ∧
    (laneAt (ran [.mxSetN 48, .startEnc, .cmSet 0 0x41]).cm 1).valid = false ∧
    let s (n : Half) := { encodingAt 0 1 with mixer := { resetMixer cfg1 with n := n } }
    State.reset.mode = .idle ∧ (s 48).mode ≠ .idle ∧
    (s 48).mixer.count.toNat + (s 48).cfg.cmLanes * (s 48).cfg.laneK ≤ (s 48).mixer.n.toNat ∧
    (s 47).mixer.n.toNat < (s 47).mixer.count.toNat + (s 47).cfg.cmLanes * (s 47).cfg.laneK ∧
    2 < (s 48).cfg.laneK ∧ 15 < (s 48).cfg.cmLanes := by decide +kernel

/-- A table with bucket 3's slots 0, 1 and 2 in use. -/
def bucket3 : ContextMap :=
  { resetCm cfg1 with slots := (List.range 3).map fun k => (slotKey 3 k, ⟨BitVec.ofNat 16 (100 + k), 2, 0, 0, 0, 0, 0, 0⟩) }

/-- The least and the greatest slot count; a match, an empty slot, an eviction. -/
theorem witness_FindFollowsTheScan :
    (3 ≤ 3 ∧ 3 ≤ 15 ∧ 15 ≤ 15) ∧ (∃ k, k < 3 ∧ (slotAt bucket3 3 k).chk = 101) ∧
    ((∀ k, k < 15 → (slotAt bucket3 3 k).chk ≠ 9) ∧ ∃ k, k < 15 ∧ (slotAt bucket3 3 k).b0 = 0) ∧
    (∀ k, k < 3 → (slotAt bucket3 3 k).chk ≠ 9 ∧ (slotAt bucket3 3 k).b0 ≠ 0) := by decide +kernel

theorem witness_FindIsStable :
    3 ≤ 7 ∧ 7 ≤ 15 ∧ ∀ k, k < 7 → (slotAt (find 7 3 9 bucket3).2 3 k).chk = (slotAt (find 7 3 9 bucket3).2 3 k).chk :=
  ⟨by decide, by decide, fun _ _ => rfl⟩

/-- The run count's three cases: none yet, the same byte (at the count that saturates), another byte. -/
theorem witness_RunUpdateShiftsRecentBytes :
    (⟨0, 0, 0, 0, 0, 0, 0, 0⟩ : Slot).b3 = 0 ∧
    ((⟨0, 2, 1, 0, 255, 0x41, 0, 0⟩ : Slot).b3 ≠ 0 ∧ (0x41 : Byte) = (⟨0, 2, 1, 0, 255, 0x41, 0, 0⟩ : Slot).b4) ∧
    (0x42 : Byte) ≠ (⟨0, 2, 1, 0, 255, 0x41, 0, 0⟩ : Slot).b4 := by decide

/-- Just enough room, and none. -/
theorem witness_MxAddPushesItsOperand :
    let s (n : Half) := { encodingAt 0 1 with mixer := { resetMixer cfg1 with n := n } }
    State.reset.mode = .idle ∧ (s 1).mode ≠ .idle ∧ (s 1).mixer.count.toNat + 1 ≤ (s 1).mixer.n.toNat ∧
    (s 0).mixer.n.toNat < (s 0).mixer.count.toNat + 1 := by decide +kernel

/-- The last legal and the first illegal value of each operand. -/
theorem witness_MixerControlCommandsWriteTheirRegister :
    State.reset.cfg.wf = true ∧ ((3 : Byte).toNat < cfg1.mxNsel ∧ (255 : Half).toNat < cfg1.mxKsel) ∧
    ¬ (4 : Byte).toNat < cfg1.mxNsel ∧ ¬ (256 : Half).toNat < cfg1.mxKsel ∧ State.reset.mixer.count = 0 ∧
    (ran [.mxSetN 1, .startEnc, .mxAdd 1]).mixer.count ≠ 0 ∧ (1024 : Half).toNat ≤ cfg1.mxMaxN ∧
    ¬ (1025 : Half).toNat ≤ cfg1.mxMaxN ∧ (1 ≤ (4 : Half).toNat ∧ (4 : Half).toNat ≤ cfg1.mxNsel) ∧
    ¬ (1 ≤ (0 : Half).toNat) ∧ ¬ (5 : Half).toNat ≤ cfg1.mxNsel ∧ (255 : Half).toNat ≤ 255 ∧ ¬ (256 : Half).toNat ≤ 255 := by
  decide +kernel

theorem witness_ApmControlCommandsWriteTheirRegister :
    { resetApm with enabled := false, ctx := 3 }.enabled = false ∧ { resetApm with enabled := false }.enabled = false ∧
    (1023 : Half).toNat < cfg1.apmNctx ∧ ¬ (1024 : Half).toNat < cfg1.apmNctx := by decide +kernel

/-- Two active banks, one input. -/
theorem witness_MixerTrainsTheSelectedWeights :
    let m := { resetMixer cfg1 with active := 2, n := 1 }
    (1 < m.active.toNat ∧ 0 < m.n.toNat ∧ 1 < m.blend.length) ∧ m.active.toNat ≤ 2 ∧ 5 ≠ selAt m 1 ∧ m.n.toNat ≤ 1 ∧
    (resetMixer cfg1).active.toNat ≤ 1 := by decide +kernel

/-- One active bank, and two; the APM off. -/
theorem witness_PredictionsStayInBounds :
    (resetMixer cfg1).active = 1 ∧ 1 < { resetMixer cfg1 with active := 2 }.active.toNat ∧
    { resetApm with enabled := false }.enabled = false := by decide +kernel

theorem witness_ApmInterpolatesAndTrainsTheNearerEntry : resetApm.enabled = true ∧ 32 ≤ 32 := by decide

theorem witness_EntriesBeyondTheInputsAreNotRead :
    let m := { resetMixer cfg1 with n := 1, inputs := [5, 6] }
    ∀ k, k < m.n.toNat → inputAt { m with inputs := [5, 9, 9] } k = inputAt m k := by decide +kernel

/-- Just enough room, and one input short. -/
theorem witness_DmcMixPushesEveryInstance :
    let s (n : Half) := { encodingAt 0 1 with mixer := { resetMixer cfg1 with n := n } }
    State.reset.mode = .idle ∧ (s 10).mode ≠ .idle ∧ (s 10).dmc.insts.length = dmcN ∧
    (s 10).mixer.count.toNat + 10 ≤ (s 10).mixer.n.toNat ∧ (s 9).mixer.n.toNat < (s 9).mixer.count.toNat + 10 := by
  decide +kernel

/-- Full and resettable, one above the bound; on the bound; full and not resettable. -/
theorem witness_DmcByteResetOfAFullInstance :
    (cfg1.resettable 0 = true ∧ cfg1.cap 0 * 1024 < (134217729 : Long).toNat) ∧ (134217728 : Long).toNat ≤ cfg1.cap 0 * 1024 ∧
    cfg1.resettable 8 = false := by decide +kernel

theorem witness_SquashIsMonotoneAndBounded : (-2047 : Int) ≤ 2047 ∧ (0 < 32 ∧ 31 < 32) ∧ (0 < 128 ∧ 127 < 128) := by decide

theorem witness_StretchIsTheLeastBestInverse :
    (0 ≤ 4095 ∧ 4095 ≤ 4095) ∧ ((-2047 : Int) ≤ -2047 ∧ (2047 : Int) ≤ 2047) ∧ (1 ≤ 1 ∧ 4094 ≤ 4094) := by decide

theorem witness_AdaptationMovesTowardTheBit : (1 ≤ 1 ∧ 1 ≤ 15) ∧ 15 ≤ 15 := by decide

/-! ### The invariants -/

/-- Every initial node's children are other nodes of the initial graph. -/
theorem nodeInit_sound {n : Nat} (h : n < 65280) :
    (∀ y, (nodeNext (nodeInit n) y).toNat < 65280 ∧ (nodeNext (nodeInit n) y).toNat ≠ n) ∧
    nodeTotal (nodeInit n) = 2048 ∧ (nodeInit n).st = 0 := by
  have hd : n = n / 255 * 255 + n % 255 := by omega
  have hp : n / 255 < 256 := by omega
  have hj : n % 255 < 255 := by omega
  unfold nodeInit initialTop
  rw [if_pos h]
  dsimp only
  generalize n / 255 = p at *
  generalize n % 255 = j at *
  have small {x : Nat} (hx : x < 65280) : (BitVec.ofNat 28 x).toNat = x := by
    rw [BitVec.toNat_ofNat]; exact Nat.mod_eq_of_lt (by omega)
  split
  · refine ⟨fun y => ?_, rfl, rfl⟩
    cases y <;> simp only [nodeNext, if_true, Bool.false_eq_true, if_false] <;> rw [small (by omega)] <;> omega
  · refine ⟨fun y => ?_, rfl, rfl⟩
    cases y <;> simp only [nodeNext, if_true, Bool.false_eq_true, if_false] <;> rw [small (by omega)] <;> omega

/-- What the invariant asks of one node. -/
def nodeOk (c : Cfg) (top n : Nat) (v : Node) : Bool :=
  decide (v.nx0.toNat < top ∧ v.nx1.toNat < top ∧ v.nx0.toNat ≠ n ∧ v.nx1.toNat ≠ n ∧ 1 ≤ nodeTotal v ∧
    v.st.toNat < c.bhTable.length)

/-- What the invariant asks of the registers. -/
def instOk (c : Cfg) (i : Nat) (d : DmcInst) : Bool :=
  decide (initialTop ≤ d.top.toNat ∧ d.top.toNat ≤ c.cap i ∧ d.curr.toNat < d.top.toNat ∧ c.thrInit i ≤ d.thr.toNat ∧
    d.thr.toNat ≤ c.thrCap i ∧ 0 < c.bhTable.length)

theorem instInv_of {c : Cfg} {i : Nat} {d : DmcInst} (h : instOk c i d = true)
    (hn : ∀ n, n < d.top.toNat → (n < 65280 ∧ nodeAt d n = nodeInit n) ∨ nodeOk c d.top.toNat n (nodeAt d n) = true) :
    InstInv c i d := by
  simp only [instOk, decide_eq_true_eq] at h
  obtain ⟨h1, h2, h3, h4, h5, h6⟩ := h
  have h1' : 65280 ≤ d.top.toNat := h1
  have ok : ∀ n, n < d.top.toNat → (∀ y, (nodeNext (nodeAt d n) y).toNat < d.top.toNat ∧ (nodeNext (nodeAt d n) y).toNat ≠ n) ∧
      1 ≤ nodeTotal (nodeAt d n) ∧ (nodeAt d n).st.toNat < c.bhTable.length := by
    intro n hlt
    rcases hn n hlt with ⟨hl, e⟩ | hk
    · rw [e]
      obtain ⟨hc, ht, hs⟩ := nodeInit_sound hl
      exact ⟨fun y => ⟨by have := (hc y).1; omega, (hc y).2⟩, by omega, by rw [hs]; exact h6⟩
    · simp only [nodeOk, decide_eq_true_eq] at hk
      obtain ⟨k1, k2, k3, k4, k5, k6⟩ := hk
      exact ⟨fun y => by cases y <;> [exact ⟨k1, k3⟩; exact ⟨k2, k4⟩], k5, k6⟩
  exact ⟨h1, h2, h3, fun n hn y => ((ok n hn).1 y).1, fun n hn y => ((ok n hn).1 y).2, fun n hn => (ok n hn).2.1,
    fun n hn => (ok n hn).2.2, h4, h5⟩

/-- A node at each of `n` indices from `b` on. -/
def fill (v : Node) : Nat → Nat → Table Node
  | _, 0 => []
  | b, n + 1 => (b, v) :: fill v (b + 1) n

theorem tableGet_fill (d : Nat → Node) (v : Node) (b n k : Nat) :
    tableGet d (fill v b n) k = if b ≤ k ∧ k < b + n then v else d k := by
  induction n generalizing b with
  | zero => simp [fill]
  | succ n ih =>
    simp only [fill, tableGet, ih]
    by_cases h : b = k
    · simp [h]
    · simp only [h, if_false]
      congr 1
      simp only [eq_iff_iff]
      omega

/-- Instance 0 at LEVEL 0 with a ripe edge from node 0 to node 2, and all of its nodes in use. -/
def ripeFull : DmcInst :=
  { freshInst (defaultCfg 0) 0 with
    top := 65536
    nodes := [(0, ⟨1024, 3000, 1, 2, 0⟩), (2, ⟨6000, 24, 5, 6, 0⟩)] ++ fill ⟨1024, 1024, 0, 1, 0⟩ 65280 256 }

/-- The same with the initial graph's nodes alone. -/
def ripeRoom : DmcInst :=
  { freshInst (defaultCfg 0) 0 with nodes := [(0, ⟨1024, 3000, 1, 2, 0⟩), (2, ⟨6000, 24, 5, 6, 0⟩)] }

theorem ripeFull_sound : InstInv (defaultCfg 0) 0 ripeFull := by
  refine instInv_of (by decide +kernel) fun n hn => ?_
  have e : nodeAt ripeFull n = if 0 = n then ⟨1024, 3000, 1, 2, 0⟩ else if 2 = n then ⟨6000, 24, 5, 6, 0⟩ else
      if 65280 ≤ n ∧ n < 65536 then ⟨1024, 1024, 0, 1, 0⟩ else nodeInit n := by
    simp only [nodeAt, ripeFull, List.cons_append, List.nil_append, tableGet, tableGet_fill]
  have ht : n < 65536 := hn
  rw [e]
  split
  · next h => subst h; exact .inr (by decide +kernel)
  · split
    · next h => subst h; exact .inr (by decide +kernel)
    · split
      · next h =>
        exact .inr (decide_eq_true ⟨by decide +kernel, by decide +kernel, by show 0 ≠ n; omega, by show 1 ≠ n; omega,
          by decide, by decide +kernel⟩)
      · exact .inl ⟨by omega, rfl⟩

theorem ripeRoom_sound : InstInv (defaultCfg 0) 0 ripeRoom := by
  refine instInv_of (by decide +kernel) fun n hn => ?_
  have e : nodeAt ripeRoom n = if 0 = n then ⟨1024, 3000, 1, 2, 0⟩ else if 2 = n then ⟨6000, 24, 5, 6, 0⟩ else nodeInit n := by
    simp only [nodeAt, ripeRoom, tableGet]
  have ht : n < 65280 := hn
  rw [e]
  split
  · next h => subst h; exact .inr (by decide +kernel)
  · split
    · next h => subst h; exact .inr (by decide +kernel)
    · exact .inl ⟨ht, rfl⟩

/-- A ripe edge with room for a clone, one without, and an edge that is not ripe. -/
theorem witness_DmcUpdateCountsAndClones :
    ((defaultCfg 0).wf = true ∧ 0 < dmcN) ∧ InstInv (defaultCfg 0) 0 ripeRoom ∧ InstInv (defaultCfg 0) 0 ripeFull ∧
    (∀ d ∈ [ripeRoom, ripeFull], d.thr.toNat < 3000 ∧ 3000 + d.thr.toNat < nodeTotal (nodeAt d 2) ∧
      (nodeAt d d.curr.toNat).c1 = 3000 ∧ nodeNext (nodeAt d d.curr.toNat) true = 2) ∧
    ripeRoom.top.toNat < (defaultCfg 0).cap 0 ∧ (defaultCfg 0).cap 0 ≤ ripeFull.top.toNat ∧
    ¬ ripeRoom.thr.toNat < ((nodeAt ripeRoom 0).c0).toNat :=
  ⟨by decide +kernel, ripeRoom_sound, ripeFull_sound, by decide +kernel, by decide +kernel, by decide +kernel,
    by decide +kernel⟩

/-- The core after reset with START_ENC at its command port. -/
def starting : State := State.reset.withFetchWord 32 0x01000000

theorem starting_steps : holdsAfter (step starting) (fun t => t.mode == .enc) = true := by decide +kernel

theorem forest_sound : ForestInv starting := by
  refine ⟨by decide +kernel, fun i hi => ?_⟩
  have e : instAt starting.dmc i = freshInst cfg1 i := by
    have : i < 10 := hi
    interval_cases i <;> rfl
  have ok : ((List.range 10).all fun i => instOk cfg1 i (freshInst cfg1 i)) = true := by decide +kernel
  rw [e]
  have hi' : instOk cfg1 i (freshInst cfg1 i) = true := List.all_eq_true.mp ok i (List.mem_range.mpr hi)
  exact instInv_of hi' fun n hn => .inl ⟨hn, rfl⟩

theorem context_sound : ContextInv starting := by
  have hl (l : Nat) (h : l < starting.cfg.cmLanes) : laneAt starting.cm l = freshLane := by
    have : l < 16 := h
    interval_cases l <;> rfl
  refine ⟨fun l h => ?_, fun b i j _ _ _ _ => rfl, fun b => ⟨.inl rfl, .inl rfl, fun _ => rfl⟩⟩
  rw [hl l h]
  exact ⟨⟨by decide +kernel, by decide +kernel⟩, by decide +kernel, by decide +kernel⟩

theorem control_sound : ControlInv starting :=
  ⟨by decide +kernel, by decide +kernel, by decide +kernel, by decide +kernel, by decide +kernel, by decide +kernel,
    by decide +kernel, by decide +kernel⟩

theorem shape_sound : ShapeInv starting := ⟨by decide +kernel, by decide +kernel, by decide +kernel, by decide +kernel⟩

theorem witness_InvariantsHoldAtReset : cfg1.wf = true := by decide +kernel

theorem witness_StepKeepsTablesCanonical :
    Memory.wf starting = true ∧ ∃ t, step starting = .next t :=
  ⟨by decide +kernel, (next_of_holds starting_steps).imp fun _ h => h.1⟩

theorem witness_StepKeepsPositionAndInterval : PositionInv starting ∧ ∃ t, step starting = .next t :=
  ⟨positionInv_of (by decide +kernel), (next_of_holds starting_steps).imp fun _ h => h.1⟩

theorem witness_StepKeepsControlRegistersLegal :
    ShapeInv starting ∧ ControlInv starting ∧ ∃ t, step starting = .next t :=
  ⟨shape_sound, control_sound, (next_of_holds starting_steps).imp fun _ h => h.1⟩

theorem witness_StepKeepsContextMapSound : ContextInv starting ∧ ∃ t, step starting = .next t :=
  ⟨context_sound, (next_of_holds starting_steps).imp fun _ h => h.1⟩

theorem witness_StepKeepsForestSound : ForestInv starting ∧ ∃ t, step starting = .next t :=
  ⟨forest_sound, (next_of_holds starting_steps).imp fun _ h => h.1⟩

theorem witness_EveryReachableStateIsSound :
    cfg1.wf = true ∧ Reachable cfg1 (hostDo (.writeCommand 0x01000000) (State.resetWith cfg1)) :=
  ⟨by decide +kernel, .host _ .reset⟩

/-- A state where ENCB 1 fits, and one where it does not. -/
theorem witness_EncbRunsExactlyWhenTheCountFits :
    let s (n : Half) := { encodingAt 0 1 with mixer := { resetMixer cfg1 with n := n } }
    (s 58).mode = .enc ∧ (s 58).halt = false ∧ (1 : Half).toNat ≤ 1 ∧ (s 58).dmc.insts.length = dmcN ∧
    (runAll (expandLine (.encb 1)) (s 58)).isSome = true ∧ (runAll (expandLine (.encb 1)) (s 57)).isSome = false ∧
    (runAll (expandLine (.encb 1)) (s 59)).isSome = false := by decide +kernel

/-- The least and the greatest CM_LOG2B, and an accepted configuration. -/
theorem witness_HashFollowsItsFormula : (1 ≤ 1 ∧ 1 ≤ 28) ∧ (1 ≤ 28 ∧ 28 ≤ 28) ∧ cfg1.wf = true := by decide +kernel

end Sys2Proof.Tests
end

section
/-! The statements of 00_scope.md: the construction check of R6, squash and stretch of R21 to R23, adapt16 of R25. -/

namespace Sys2Proof.Machine

/-! ### The construction check (R6) -/

theorem construct_of_wf {c : Cfg} (h : c.wf = true) : construct c = some (State.resetWith c) := by simp [construct, h]

theorem construct_of_not_wf {c : Cfg} (h : c.wf = false) : construct c = none := by simp [construct, h]

theorem step_of_not_wf {s : State} (h : s.cfg.wf = false) : step s = .refused .illFormedConfig := by simp [step, h]

theorem within_iff (lo hi v : Nat) : within lo hi v = true ↔ lo ≤ v ∧ v ≤ hi := by simp [within]

/-- Of the scalar fields of the defaults only LEVEL can leave its range: `CM_LOG2B = 10 + LEVEL` stays inside its own. -/
theorem defaultCfg_scalarsOk (level : Nat) : (defaultCfg level).scalarsOk = decide (level ≤ 9) := by
  rw [Bool.eq_iff_iff]
  simp only [Cfg.scalarsOk, defaultCfg, Bool.and_eq_true, within_iff, decide_eq_true_eq]
  omega

/-- The powers of two of DMC_CAP stay in R5's range at each legal LEVEL. -/
theorem defaultCfg_dmcOk : ∀ level ≤ 9, (defaultCfg level).dmcOk = true := by decide +kernel

theorem defaultBhTable_ok : bhTableOk defaultBhTable = true := by decide +kernel

theorem defaultCfg_wf (level : Nat) : (defaultCfg level).wf = decide (level ≤ 9) := by
  have htable : bhTableOk (defaultCfg level).bhTable = true := defaultBhTable_ok
  rw [Cfg.wf, defaultCfg_scalarsOk, htable, Bool.and_true]
  by_cases h : level ≤ 9
  · simp [h, defaultCfg_dmcOk level h]
  · simp [h]

/-- Settles O7: the two functions branch on the check alone, and only LEVEL decides it for the defaults. -/
theorem constructionRefusesIllFormedConfig : Obligations.ConstructionRefusesIllFormedConfig :=
  ⟨fun _ h => ⟨construct_of_not_wf h, fun _ hs => step_of_not_wf (hs ▸ h)⟩, fun _ h => construct_of_wf h, defaultCfg_wf⟩

/-! ### Adaptation (R25) -/

/-- Rounding a negated quotient down is rounding the quotient up. -/
theorem asr_neg (e r : Nat) : asr (-(e : Int)) r = -(((e + (2 ^ r - 1)) / 2 ^ r : Nat) : Int) := by
  have hpos : 0 < 2 ^ r := Nat.two_pow_pos r
  unfold asr
  generalize 2 ^ r = n at *
  have hlo := Nat.div_mul_le_self (e + (n - 1)) n
  have hhi := Nat.lt_div_mul_add (a := e + (n - 1)) hpos
  generalize (e + (n - 1)) / n = q at *
  zify [hpos] at hlo hhi
  rw [Int.ediv_eq_iff_of_pos (by omega)]
  constructor <;> linarith

theorem ceil_div_le (e : Nat) {n : Nat} (hn : 0 < n) : (e + (n - 1)) / n ≤ e := by
  rw [← Nat.lt_succ_iff, Nat.div_lt_iff_lt_mul hn, Nat.succ_mul]
  have := Nat.le_mul_of_pos_right e hn
  omega

/-- An entry that adaptation leaves in u16 is held as it is. -/
theorem adapt16_toNat {e : Half} {y : Bool} {r n : Nat} (hn : n < 65536)
    (h : (e.toNat : Int) + asr ((if y then 65535 else 0) - (e.toNat : Int)) r = n) : (adapt16 e y r).toNat = n := by
  simp only [adapt16, h, BitVec.ofInt_natCast, BitVec.toNat_ofNat]
  exact Nat.mod_eq_of_lt hn

theorem adapt16_true_toNat (e : Half) (r : Nat) :
    (adapt16 e true r).toNat = e.toNat + (65535 - e.toNat) / 2 ^ r := by
  have he := e.isLt
  have hstep := Nat.div_le_self (65535 - e.toNat) (2 ^ r)
  refine adapt16_toNat (by omega) ?_
  have hgap : (65535 : Int) - (e.toNat : Int) = (65535 - e.toNat : Nat) := by omega
  rw [if_pos rfl, hgap, asr]
  norm_cast

theorem adapt16_false_toNat (e : Half) (r : Nat) :
    (adapt16 e false r).toNat = e.toNat - (e.toNat + (2 ^ r - 1)) / 2 ^ r := by
  have hceil := ceil_div_le e.toNat (Nat.two_pow_pos r)
  refine adapt16_toNat (lt_of_le_of_lt (Nat.sub_le _ _) e.isLt) ?_
  rw [if_neg Bool.false_ne_true, Int.zero_sub, asr_neg, Nat.cast_sub hceil]
  ring

/-- Settles O51: the floor of a negated quotient is the ceiling R25 names, and neither result leaves u16. -/
theorem adaptationMovesTowardTheBit : Obligations.AdaptationMovesTowardTheBit :=
  fun e r _ _ => ⟨adapt16_true_toNat e r, adapt16_false_toNat e r⟩

/-! ### squash (R21) -/

/-- The line of R21 from knot `i` to knot `i + 1`, rounded; `w = 128` is the knot `i + 1` itself. -/
def knotLine (i w : Nat) : Nat := (sqKnots.getD i 0 * (128 - w) + sqKnots.getD (i + 1) 0 * w + 64) / 128

theorem knotLine_end (i : Nat) : knotLine i 128 = knotLine (i + 1) 0 := by
  simp only [knotLine]; omega

/-- No knot is below the one before it, nor more than 502 above it. -/
theorem sqKnots_succ :
    ∀ i < 32, sqKnots.getD i 0 ≤ sqKnots.getD (i + 1) 0 ∧ sqKnots.getD (i + 1) 0 ≤ sqKnots.getD i 0 + 502 := by decide

/-- One step along a line climbs by at most 4, since 502 < 4 * 128. -/
theorem knotLine_succ {i w : Nat} (hi : i < 32) (hw : w < 128) :
    knotLine i w ≤ knotLine i (w + 1) ∧ knotLine i (w + 1) ≤ knotLine i w + 4 := by
  obtain ⟨hle, hgap⟩ := sqKnots_succ i hi
  unfold knotLine
  generalize sqKnots.getD i 0 = a at *
  generalize sqKnots.getD (i + 1) 0 = b at *
  obtain ⟨k, rfl⟩ := Nat.exists_eq_add_of_le hle
  have hsplit : 128 - w = 128 - (w + 1) + 1 := by omega
  have hnum : a * (128 - (w + 1)) + (a + k) * (w + 1) = a * (128 - w) + (a + k) * w + k := by rw [hsplit]; ring
  rw [hnum]
  omega

theorem squash_of_le {d : Int} (h : d ≤ -2047) : squash d = squash (-2047) := by
  have hd : clamp d (-2047) 2047 = clamp (-2047) (-2047) 2047 := by unfold clamp; split <;> split <;> omega
  simp only [squash, hd]

theorem squash_of_ge {d : Int} (h : 2047 ≤ d) : squash d = squash 2047 := by
  have hd : clamp d (-2047) 2047 = clamp 2047 (-2047) 2047 := by unfold clamp; split <;> split <;> omega
  simp only [squash, hd]

/-- Inside the clamp, R21's `w` and `i` are the remainder and the quotient by 128. -/
theorem squash_of_knot {i w : Nat} (hi : i < 32) (hw : w < 128) (hpos : 1 ≤ i * 128 + w) :
    squash (((i : Int) - 16) * 128 + w) = knotLine i w := by
  have hclamp : clamp (((i : Int) - 16) * 128 + w) (-2047) 2047 = ((i : Int) - 16) * 128 + w :=
    clamp_of_mem (by omega) (by omega)
  have hrem : ((((i : Int) - 16) * 128 + w) % 128).toNat = w := by omega
  have hquot : (asr (((i : Int) - 16) * 128 + w) 7 + 16).toNat = i := by
    simp only [asr]; omega
  simp only [squash, hclamp, hrem, hquot]
  rfl

/-- The interpolation also holds at the two points next to the clamp, -2048 and 2048: rounding gives them the value at it. -/
theorem squash_eq_knotLine {i w : Nat} (hi : i < 32) (hw : w ≤ 128) :
    squash (((i : Int) - 16) * 128 + w) = knotLine i w := by
  by_cases hfirst : i = 0 ∧ w = 0
  · obtain ⟨rfl, rfl⟩ := hfirst; decide +kernel
  by_cases hlast : i = 31 ∧ w = 128
  · obtain ⟨rfl, rfl⟩ := hlast; decide +kernel
  rcases hw.lt_or_eq with hlt | rfl
  · exact squash_of_knot hi hlt (by omega)
  · have hnext := squash_of_knot (i := i + 1) (w := 0) (by omega) (by omega) (by omega)
    rw [knotLine_end, ← hnext]
    congr 1
    omega

theorem exists_knot {d : Int} (hlo : -2047 ≤ d) (hhi : d < 2047) :
    ∃ i w : Nat, i < 32 ∧ w < 128 ∧ d = ((i : Int) - 16) * 128 + w :=
  ⟨((d + 2048) / 128).toNat, (d % 128).toNat, by omega, by omega, by omega⟩

theorem squash_succ (d : Int) : squash d ≤ squash (d + 1) ∧ squash (d + 1) ≤ squash d + 4 := by
  by_cases hlo : d < -2047
  · rw [squash_of_le (d := d) (by omega), squash_of_le (d := d + 1) (by omega)]; omega
  by_cases hhi : 2047 ≤ d
  · rw [squash_of_ge (d := d) (by omega), squash_of_ge (d := d + 1) (by omega)]; omega
  obtain ⟨i, w, hi, hw, rfl⟩ := exists_knot (by omega) (by omega : d < 2047)
  have hnext := squash_eq_knotLine hi (show w + 1 ≤ 128 from hw)
  rw [Nat.cast_succ, ← add_assoc] at hnext
  rw [squash_eq_knotLine hi hw.le, hnext]
  exact knotLine_succ hi hw

theorem squash_mono : Monotone squash := monotone_int_of_le_succ fun d => (squash_succ d).1

theorem squash_least : squash (-2047) = 1 := by decide +kernel

theorem squash_greatest : squash 2047 = 4094 := by decide +kernel

theorem squash_bounds (d : Int) : 1 ≤ squash d ∧ squash d ≤ 4094 := by
  constructor
  · calc 1 = squash (-2047) := squash_least.symm
      _ = squash (min d (-2047)) := (squash_of_le (min_le_right _ _)).symm
      _ ≤ squash d := squash_mono (min_le_left _ _)
  · calc squash d ≤ squash (max d 2047) := squash_mono (le_max_left _ _)
      _ = squash 2047 := squash_of_ge (le_max_right _ _)
      _ = 4094 := squash_greatest

/-- Settles O49: squash is its lines between the knots; each line climbs, and the clamp bounds its values by its end points. -/
theorem squashIsMonotoneAndBounded : Obligations.SquashIsMonotoneAndBounded :=
  ⟨fun _ _ hi hw => squash_eq_knotLine hi hw.le, fun _ => ⟨squash_of_le, squash_of_ge⟩, squash_bounds,
    fun _ _ h => squash_mono h, squash_least, by decide +kernel, squash_greatest⟩

/-! ### stretch (R22, R23) -/

/-- The test of the bisection: the `t`-th point of [-2047, 2047] exists and its squash is below `p`. -/
def PointBelow (p t : Nat) : Prop := t ≤ 4095 ∧ squash ((t : Int) - 2048) < p

/-- The bisection ends at an `n` it has found below `p`, or at 0, such that `n + 1` is not. -/
theorem countBelow_spec (p : Nat) : ∀ bits acc : Nat,
    (acc = 0 ∨ PointBelow p acc) → ¬ PointBelow p (acc + 2 ^ bits) →
    (countBelow p bits acc = 0 ∨ PointBelow p (countBelow p bits acc)) ∧ ¬ PointBelow p (countBelow p bits acc + 1)
  | 0, _, hacc, hend => ⟨hacc, hend⟩
  | bits + 1, acc, hacc, hend => by
    rw [pow_succ, mul_two, ← add_assoc] at hend
    simp only [countBelow]
    split
    · next h => exact countBelow_spec p bits _ (.inr h) hend
    · next h => exact countBelow_spec p bits _ hacc h

theorem pointsBelow_spec (p : Nat) :
    (pointsBelow p = 0 ∨ PointBelow p (pointsBelow p)) ∧ ¬ PointBelow p (pointsBelow p + 1) :=
  countBelow_spec p 12 0 (.inl rfl) fun h => absurd h.1 (by decide)

theorem pointsBelow_le (p : Nat) : pointsBelow p ≤ 4095 := by
  obtain ⟨h | ⟨h, -⟩, -⟩ := pointsBelow_spec p <;> omega

/-- Because squash is monotone, the points below `p` are the first `pointsBelow p` of [-2047, 2047]. -/
theorem squash_lt_iff (p : Nat) {d : Int} (hlo : -2047 ≤ d) (hhi : d ≤ 2047) :
    squash d < p ↔ d < (pointsBelow p : Int) - 2047 := by
  obtain ⟨hbelow, hend⟩ := pointsBelow_spec p
  constructor
  · intro hd
    by_contra hge
    refine hend ⟨by omega, lt_of_le_of_lt (squash_mono ?_) hd⟩
    omega
  · intro hd
    obtain h | ⟨-, h⟩ := hbelow
    · omega
    · exact lt_of_le_of_lt (squash_mono (by omega)) h

/-- R22: `e` is the least point of [-2047, 2047] at the least distance of squash from `p`. -/
def IsLeastNearest (p : Nat) (e : Int) : Prop :=
  -2047 ≤ e ∧ e ≤ 2047 ∧
  ∀ d : Int, -2047 ≤ d → d ≤ 2047 →
    ((squash e : Int) - p).natAbs ≤ ((squash d : Int) - p).natAbs ∧
    (d < e → ((squash e : Int) - p).natAbs < ((squash d : Int) - p).natAbs)

/-- The first point at which squash is not below `p`, when squash there is nearer to `p` than at the points before it. -/
theorem isLeastNearest_of_first_above {p : Nat} {e : Int} (hlo : -2047 ≤ e) (hhi : e ≤ 2047) (habove : p ≤ squash e)
    (hnear : ∀ d, -2047 ≤ d → d < e → squash d < p ∧ squash e - p < p - squash d) : IsLeastNearest p e := by
  refine ⟨hlo, hhi, fun d hdlo _ => ?_⟩
  by_cases hd : d < e
  · have := hnear d hdlo hd
    omega
  · have := squash_mono (not_lt.mp hd)
    omega

/-- The first point with the greatest value of squash below `p`, when no point above `p` is nearer. -/
theorem isLeastNearest_of_first_below {p : Nat} {e : Int} (hlo : -2047 ≤ e) (hhi : e ≤ 2047) (hbelow : squash e < p)
    (hfirst : ∀ d, -2047 ≤ d → d < e → squash d < squash e)
    (hnear : ∀ d, e ≤ d → d ≤ 2047 → squash d = squash e ∨ p ≤ squash d ∧ p - squash e ≤ squash d - p) :
    IsLeastNearest p e := by
  refine ⟨hlo, hhi, fun d hdlo hdhi => ?_⟩
  by_cases hd : d < e
  · have := hfirst d hdlo hd
    omega
  · have := hnear d (not_lt.mp hd) hdhi
    omega

/-- The first point with the value that squash has at `d`. -/
theorem first_of_squash {d : Int} (hlo : -2047 ≤ d) (hhi : d ≤ 2047) :
    let e := (pointsBelow (squash d) : Int) - 2047
    e ≤ d ∧ -2047 ≤ e ∧ squash e = squash d ∧ ∀ x, -2047 ≤ x → x < e → squash x < squash e := by
  intro e
  have below {x : Int} (hxlo : -2047 ≤ x) (hxhi : x ≤ 2047) : squash x < squash d ↔ x < e :=
    squash_lt_iff _ hxlo hxhi
  have helo : -2047 ≤ e := by omega
  have hed : e ≤ d := not_lt.mp fun h => lt_irrefl _ ((below hlo hhi).mpr h)
  have heq : squash e = squash d :=
    le_antisymm (squash_mono hed) (not_lt.mp fun h => lt_irrefl _ ((below helo (by omega)).mp h))
  exact ⟨hed, helo, heq, fun x hxlo hx => heq ▸ (below hxlo (by omega)).mpr hx⟩

/-- With `c` points below `p`, the candidates are the first point above (`c = 0`, or it is nearer) and the first point of the
greatest value below. -/
theorem stretch_isLeastNearest (p : Nat) : IsLeastNearest p (stretch p) := by
  have hc := pointsBelow_le p
  have below {d : Int} := squash_lt_iff p (d := d)
  simp only [stretch]
  generalize pointsBelow p = c at *
  split
  · next h0 =>
    subst h0
    refine isLeastNearest_of_first_above (by omega) (by omega) ?_ (by omega)
    have := below (d := -2047) (by omega) (by omega)
    omega
  next h0 =>
  have hv : squash ((c : Int) - 2048) < p := (below (by omega) (by omega)).mpr (by omega)
  split
  · next hnear =>
    obtain ⟨hed, helo, heq, hfirst⟩ := first_of_squash (d := (c : Int) - 2048) (by omega) (by omega)
    refine isLeastNearest_of_first_below helo (by omega) (heq.trans_lt hv) hfirst fun d hd hdhi => ?_
    by_cases hdc : d ≤ (c : Int) - 2048
    · exact .inl (le_antisymm ((squash_mono hdc).trans heq.ge) (squash_mono hd))
    · have := below (d := d) (by omega) hdhi
      have := squash_mono (show (c : Int) - 2047 ≤ d by omega)
      omega
  · next hnear =>
    refine isLeastNearest_of_first_above (by omega) (by omega) ?_ fun d hdlo hd => ?_
    · have := below (d := (c : Int) - 2047) (by omega) (by omega)
      omega
    · have := (below hdlo (by omega)).mpr hd
      have := squash_mono (show d ≤ (c : Int) - 2048 by omega)
      omega

/-- R23: squash climbs by at most 4 between two points, so one of the two around `p` is within 2 of it. -/
theorem exists_squash_near {p : Nat} (h1 : 1 ≤ p) (h2 : p ≤ 4094) :
    ∃ d : Int, -2047 ≤ d ∧ d ≤ 2047 ∧ ((squash d : Int) - p).natAbs ≤ 2 := by
  have hc := pointsBelow_le p
  have below {d : Int} := squash_lt_iff p (d := d)
  generalize pointsBelow p = c at *
  have hleast := squash_least
  have hgreatest := squash_greatest
  by_cases h0 : c = 0
  · have := below (d := -2047) (by omega) (by omega)
    exact ⟨-2047, by omega, by omega, by omega⟩
  by_cases hend : c = 4095
  · have := @below 2047 (by omega) (by omega)
    omega
  have hv := below (d := (c : Int) - 2048) (by omega) (by omega)
  have hw := below (d := (c : Int) - 2048 + 1) (by omega) (by omega)
  have hgap := (squash_succ ((c : Int) - 2048)).2
  by_cases hnear : p ≤ squash ((c : Int) - 2048) + 2
  · exact ⟨(c : Int) - 2048, by omega, by omega, by omega⟩
  · exact ⟨(c : Int) - 2048 + 1, by omega, by omega, by omega⟩

/-- Settles O50: stretch meets `IsLeastNearest`, and some point is within 2 of each `p` in [1, 4094]. -/
theorem stretchIsTheLeastBestInverse : Obligations.StretchIsTheLeastBestInverse := by
  refine ⟨by decide +kernel, fun p _ => stretch_isLeastNearest p, fun p h1 h2 => ?_⟩
  obtain ⟨d, hlo, hhi, hnear⟩ := exists_squash_near h1 h2
  obtain ⟨-, -, hbest⟩ := stretch_isLeastNearest p
  exact (hbest d hlo hhi).1.trans hnear

end Sys2Proof.Machine
end

section
/-! The register map of 10_state.md: its indices are those of R53, each once, and what stands at each of them. -/

namespace Sys2Proof.Machine

/-! ### A map whose indices are distinct -/

theorem isSome_lookup_iff {β : Type} (l : List (Nat × β)) (k : Nat) :
    (l.lookup k).isSome = true ↔ k ∈ l.map Prod.fst := by
  simp only [List.lookup_isSome_iff, beq_iff_eq, List.mem_map, eq_comm (a := k)]

theorem lookup_eq_of_mem {β : Type} {l : List (Nat × β)} (hl : (l.map Prod.fst).Nodup) {k : Nat} {v : β}
    (h : (k, v) ∈ l) : l.lookup k = some v := by
  induction l with
  | nil => cases h
  | cons e l ih =>
    obtain ⟨hne, hl⟩ := List.nodup_cons.mp hl
    rcases List.mem_cons.mp h with rfl | h
    · exact List.lookup_cons_self
    · have hk : k ≠ e.1 := fun hk => hne (hk ▸ List.mem_map_of_mem h)
      rw [List.lookup_cons, beq_false_of_ne hk]
      exact ih hl h

/-! ### The indices (R53) -/

/-- The runs of indices of the register map in its order, each with its first index and its length, for MX_NSEL = `nsel`. -/
def regBlocks (nsel : Nat) : List (Nat × Nat) :=
  [(0x000, 14), (0x0B0, 10), (0x0C0, 10), (0x0D0, 10), (0x0E0, 10), (0x010, 9), (0x020, 4), (0x030, 5), (0x040, 3),
   (0x048, 3), (0x038, nsel), (0x050, 1), (0x060, 10), (0x070, 10), (0x080, 10), (0x090, 10), (0x0A0, 10)]

/-- All indices of those runs. -/
def regIndices (nsel : Nat) : List Nat := (regBlocks nsel).flatMap fun b => List.range' b.1 b.2

theorem perInstance_indices (base : Nat) (f : Nat → Word) : (perInstance base f).map Prod.fst = List.range' base dmcN := by
  simp [perInstance, List.range'_eq_map_range, Function.comp_def]

theorem bank_indices (base n : Nat) (f : Nat → Word) :
    ((List.range n).map fun j => (base + j, f j)).map Prod.fst = List.range' base n := by
  simp [List.range'_eq_map_range, Function.comp_def]

theorem regMap_indices (s : State) : (regMap s).map Prod.fst = regIndices s.cfg.mxNsel := by
  simp only [regMap, configRegs, coreRegs, unitRegs, dmcRegs, List.map_append, List.map_cons, List.map_nil,
    perInstance_indices, bank_indices]
  rfl

theorem mem_regIndices (c : Cfg) (k : Nat) : k ∈ regIndices c.mxNsel ↔ c.definesReg k = true := by
  simp only [regIndices, regBlocks, List.mem_flatMap, List.mem_cons, List.not_mem_nil, or_false, exists_eq_or_imp,
    exists_eq_left, List.mem_range'_1, Cfg.definesReg, Bool.or_eq_true, Bool.and_eq_true, within_iff, decide_eq_true_eq,
    beq_iff_eq]
  omega

/-- Settles O28: the indices of the map are the runs of R53. -/
theorem registerIndicesAreExactlyThoseListed : Obligations.RegisterIndicesAreExactlyThoseListed := fun s k _ => by
  rw [readRegister, isSome_lookup_iff, regMap_indices, mem_regIndices]

theorem mxNsel_bounds {c : Cfg} (h : c.wf = true) : 1 ≤ c.mxNsel ∧ c.mxNsel ≤ 8 := by
  simp only [Cfg.wf, Cfg.scalarsOk, Bool.and_eq_true, within_iff] at h
  omega

/-- The banks' indices, 0x038 to 0x03F at most, stay below the next run. -/
theorem regIndices_nodup : ∀ n ≤ 8, (regIndices n).Nodup := by decide +kernel

theorem readRegister_of_mem {s : State} (hw : s.cfg.wf = true) {k : Nat} {w : Word} (h : (k, w) ∈ regMap s) :
    readRegister s k = some w :=
  lookup_eq_of_mem (regMap_indices s ▸ regIndices_nodup _ (mxNsel_bounds hw).2) h

/-! ### STATUS and the computed views (R44, R51, R52) -/

/-- Fields written side by side are added at their places. -/
theorem toNat_append_eq {m n : Nat} (x : BitVec m) (y : BitVec n) : (x ++ y).toNat = x.toNat * 2 ^ n + y.toNat := by
  rw [BitVec.toNat_append, ← Nat.shiftLeft_add_eq_or_of_lt y.isLt, Nat.shiftLeft_eq]

theorem statusWord_toNat (s : State) : (statusWord s).toNat =
    (match s.mode with | .idle => 0 | .enc => 1 | .dec => 2) + (if s.halt then 4 else 0) + (if s.ports.eos then 8 else 0) +
      16 * s.bpos.toNat := by
  simp only [statusWord, toNat_append_eq, BitVec.toNat_ofBool]
  cases s.mode <;> cases s.halt <;> cases s.ports.eos <;> simp [modeBits] <;> omega

theorem bitsWord_lt (f : Nat → Bool) (n : Nat) : bitsWord f n < 2 ^ n := by
  induction n with
  | zero => simp [bitsWord]
  | succ n ih => rw [bitsWord, pow_succ]; split <;> omega

theorem testBit_bitsWord (f : Nat → Bool) (n l : Nat) : (bitsWord f n).testBit l = (decide (l < n) && f l) := by
  induction n with
  | zero => simp [bitsWord]
  | succ n ih =>
    have hsum : bitsWord f (n + 1) = 2 ^ n * bitNat (f n) + bitsWord f n := by
      cases h : f n <;> simp [bitsWord, bitNat, h, Nat.add_comm]
    rw [hsum, Nat.testBit_two_pow_mul_add _ (bitsWord_lt f n), ih]
    rcases Nat.lt_trichotomy l n with h | rfl | h
    · simp [h, Nat.lt_succ_of_lt h]
    · cases f l <;> simp [bitNat]
    · have hb : bitNat (f n) < 2 ^ (l - n) := (bitNat_le _).trans_lt (Nat.one_lt_two_pow (by omega))
      simp [Nat.testBit_lt_two_pow hb, show ¬ l < n by omega, show ¬ l < n + 1 by omega]

theorem getLsbD_bitsWord (f : Nat → Bool) (n : Nat) {l : Nat} (hl : l < 32) :
    (wordOf (bitsWord f n)).getLsbD l = (decide (l < n) && f l) := by
  rw [wordOf, BitVec.getLsbD_ofNat, decide_eq_true hl, Bool.true_and, testBit_bitsWord]

theorem wordOfBool_eq (b : Bool) : wordOfBool b = if b then 1 else 0 := by cases b <;> rfl

/-! ### The value at each index (R42 to R52) -/

theorem mem_regMap (s : State) (e : Nat × Word) :
    e ∈ regMap s ↔ e ∈ configRegs s.cfg ∨ e ∈ coreRegs s ∨ e ∈ unitRegs s ∨ e ∈ dmcRegs s := by
  simp [regMap]

theorem mem_perInstance (base : Nat) (f : Nat → Word) {i : Nat} (h : i < dmcN) : (base + i, f i) ∈ perInstance base f :=
  List.mem_map.mpr ⟨i, List.mem_range.mpr h, rfl⟩

section
variable {s : State} (hw : s.cfg.wf = true) {k : Nat} {w : Word}
include hw

theorem readRegister_config (h : (k, w) ∈ configRegs s.cfg) : readRegister s k = some w :=
  readRegister_of_mem hw ((mem_regMap s _).mpr (.inl h))

theorem readRegister_core (h : (k, w) ∈ coreRegs s) : readRegister s k = some w :=
  readRegister_of_mem hw ((mem_regMap s _).mpr (.inr (.inl h)))

theorem readRegister_unit (h : (k, w) ∈ unitRegs s) : readRegister s k = some w :=
  readRegister_of_mem hw ((mem_regMap s _).mpr (.inr (.inr (.inl h))))

theorem readRegister_dmc (h : (k, w) ∈ dmcRegs s) : readRegister s k = some w :=
  readRegister_of_mem hw ((mem_regMap s _).mpr (.inr (.inr (.inr h))))

theorem readRegister_bank (j : Nat) (hj : j < s.cfg.mxNsel) :
    readRegister s (0x038 + j) = some (wordOf (selAt s.mixer j)) :=
  readRegister_unit hw (List.mem_append_right _ (List.mem_map.mpr ⟨j, List.mem_range.mpr hj, rfl⟩))

end

section
variable {s : State} (hw : s.cfg.wf = true) {i : Nat} (hi : i < dmcN)
include hw hi

/-- The configuration read-back of a DMC predictor (R43). -/
theorem readRegister_dmcConfig :
    readRegister s (0x0B0 + i) = some (wordOf (s.cfg.cap i)) ∧
    readRegister s (0x0C0 + i) = some (wordOf (s.cfg.thrInit i)) ∧
    readRegister s (0x0D0 + i) = some (wordOf (s.cfg.thrCap i)) ∧
    readRegister s (0x0E0 + i) = some (wordOfBool (s.cfg.resettable i)) := by
  refine ⟨?_, ?_, ?_, ?_⟩ <;> apply readRegister_config hw <;> simp only [configRegs, List.mem_append]
  · exact .inl (.inl (.inl (.inr (mem_perInstance _ _ hi))))
  · exact .inl (.inl (.inr (mem_perInstance _ _ hi)))
  · exact .inl (.inr (mem_perInstance _ _ hi))
  · exact .inr (mem_perInstance _ _ hi)

/-- The registers of a DMC predictor (R52). -/
theorem readRegister_dmcInst :
    readRegister s (0x060 + i) = some (instAt s.dmc i).top ∧
    readRegister s (0x070 + i) = some ((instAt s.dmc i).curr.setWidth 32) ∧
    readRegister s (0x080 + i) = some (instAt s.dmc i).thr ∧
    readRegister s (0x090 + i) = some ((instAt s.dmc i).extra.extractLsb' 0 32) ∧
    readRegister s (0x0A0 + i) = some ((instAt s.dmc i).extra.extractLsb' 32 32) := by
  refine ⟨?_, ?_, ?_, ?_, ?_⟩ <;> apply readRegister_dmc hw <;>
    refine List.mem_cons_of_mem _ ?_ <;> simp only [List.mem_append]
  · exact .inl (.inl (.inl (.inl (mem_perInstance _ (fun i => (instAt s.dmc i).top) hi))))
  · exact .inl (.inl (.inl (.inr (mem_perInstance _ (fun i => (instAt s.dmc i).curr.setWidth 32) hi))))
  · exact .inl (.inl (.inr (mem_perInstance _ (fun i => (instAt s.dmc i).thr) hi)))
  · exact .inl (.inr (mem_perInstance _ (fun i => (instAt s.dmc i).extra.extractLsb' 0 32) hi))
  · exact .inr (mem_perInstance _ (fun i => (instAt s.dmc i).extra.extractLsb' 32 32) hi)

end

/-- Settles O29: a value is read where its entry stands in the map, for the indices are distinct. -/
theorem registerMapValues : Obligations.RegisterMapValues := by
  refine ⟨statusWord_toNat, ⟨rfl, rfl, rfl, rfl, rfl, rfl, rfl, rfl⟩, fun s hw => ?_⟩
  have hconfig {k w} := readRegister_config hw (k := k) (w := w)
  have hcore {k w} := readRegister_core hw (k := k) (w := w)
  have hunit {k w} := readRegister_unit hw (k := k) (w := w)
  simp only [← wordOfBool_eq]
  refine ⟨?ident, ?config, ?status, ?coder, ?mixer, ?apm, ?scale, ⟨cmValidWord s, ?valid, ?validBits⟩,
    ⟨dmcFullWord s, ?full, ?fullBits⟩, ?dmc⟩
  case ident => and_intros <;> exact hconfig (by simp [configRegs])
  case config => and_intros <;> exact hconfig (by simp [configRegs, wordOf, dmcN])
  case status => and_intros <;> exact hcore (by simp [coreRegs, wordOf])
  case coder => and_intros <;> exact hcore (by simp [coreRegs])
  case mixer =>
    refine ⟨?_, ?_, ?_, ?_, ?_, readRegister_bank hw⟩ <;> exact hunit (by simp [unitRegs])
  case apm => and_intros <;> exact hunit (by simp [unitRegs])
  case scale => and_intros <;> exact hunit (by simp [unitRegs])
  case valid => exact hunit (by simp [unitRegs])
  case validBits => exact fun l hl => getLsbD_bitsWord _ _ hl
  case full => exact readRegister_dmc hw (by simp [dmcRegs])
  case fullBits => exact fun i hi => getLsbD_bitsWord _ _ hi
  case dmc =>
    intro i hi
    obtain ⟨htop, hcurr, hthr, hlow, hhigh⟩ := readRegister_dmcInst hw hi
    obtain ⟨hcap, hinit, hthrCap, hreset⟩ := readRegister_dmcConfig hw hi
    exact ⟨htop, hcurr, hthr, hlow, hhigh, hcap, hinit, hthrCap, hreset⟩

end Sys2Proof.Machine
end

section
/-! What a command needs to have its effect, by the table of 60_exceptions.md R404, and how an invariant follows. -/

namespace Sys2Proof.Machine

/-! ### The checks of a command are its row of R404 -/

theorem overflows_iff (s : State) (pushed : Option Nat) :
    overflows s pushed = true ↔ ∃ n ∈ pushed, s.mixer.n.toNat < s.mixer.count.toNat + n := by
  cases pushed <;> simp [overflows]

/-- Checks that hold what the columns of R404 hold fail where the table says. -/
theorem firstFailure_eq_expectedError {c : Checks} {i : Instr} {s : State}
    (hmode : c.mode = decide (s.mode ∈ allowedModes i)) (hphase : c.phase = phaseHolds s i) (hrange : c.range = i.operandsLegal s.cfg) (hpushed : c.pushed = pushedBy s.cfg i)
    (hcount : c.count = needsCount i) : firstFailure c s = expectedError i s := by
  simp [firstFailure, expectedError, hmode, hphase, hrange, hpushed, hcount, overflows_iff]

theorem isSome_readRegister (s : State) (k : Nat) : (readRegister s k).isSome = s.cfg.definesReg k := by
  rw [Bool.eq_iff_iff, readRegister, isSome_lookup_iff, regMap_indices, mem_regIndices]

theorem mode_mem_all (m : Mode) : true = decide (m ∈ [Mode.idle, .enc, .dec]) := by cases m <;> rfl

theorem mode_beq_eq (m k : Mode) : (m == k) = decide (m ∈ [k]) := by cases m <;> cases k <;> rfl

theorem inSession_eq (s : State) : inSession s = decide (s.mode ∈ [Mode.enc, .dec]) := by
  unfold inSession
  cases s.mode <;> rfl

theorem decide_le_eq_within (hi v : Nat) : decide (v ≤ hi) = within 0 hi v := by simp [within]

/-- Every meaning is its effect behind the checks of its row. -/
theorem exec_eq (i : Instr) (s : State) : ∃ c, firstFailure c s = expectedError i s ∧
    (exec i s = runCommand i c (effectOf i) s ∨ exec i s = runWaiting i c (bytesNeeded s i) (effectOf i) s) := by
  cases i
  case nop | bhQuery | cmSetScale | mxSetScale | dmcSetScale =>
    exact ⟨{}, firstFailure_eq_expectedError (mode_mem_all _) rfl rfl rfl rfl, .inl rfl⟩
  case startDec | decBit =>
    exact ⟨_, firstFailure_eq_expectedError (mode_beq_eq _ _) rfl rfl rfl rfl, .inr rfl⟩
  case startEnc | flush | stop =>
    refine ⟨_, ?_, .inl rfl⟩
    exact firstFailure_eq_expectedError (mode_beq_eq _ _) rfl rfl rfl rfl
  case encBit =>
    refine ⟨_, ?_, .inl rfl⟩
    exact firstFailure_eq_expectedError (mode_beq_eq _ _) rfl (decide_le_eq_within _ _) rfl rfl
  case peekP | cmSet | cmMix | mxAdd | dmcMix =>
    refine ⟨_, ?_, .inl rfl⟩
    exact firstFailure_eq_expectedError (inSession_eq s) rfl rfl rfl rfl
  case readReg =>
    refine ⟨_, ?_, .inl rfl⟩
    exact firstFailure_eq_expectedError (mode_mem_all _) rfl (isSome_readRegister s _) rfl rfl
  case mxSelect | mxSetActive | apmSetCtx | apmSetRate =>
    refine ⟨_, ?_, .inl rfl⟩
    exact firstFailure_eq_expectedError (mode_mem_all _) rfl rfl rfl rfl
  case mxSetN | mxSetLr | apmEnable =>
    refine ⟨_, ?_, .inl rfl⟩
    exact firstFailure_eq_expectedError (mode_mem_all _) rfl (decide_le_eq_within _ _) rfl rfl

/-- What a command can do: it waits, it faults as its row says, or it passes every check and has its effect. -/
theorem exec_outcome {i : Instr} {s t : State} (h : exec i s = .next t) :
    t = s ∨ (∃ code, expectedError i s = some code ∧ t = faulted code i s) ∨
    (expectedError i s = none ∧ t = effectOf i (consume i.words s)) := by
  obtain ⟨c, hc, he | he⟩ := exec_eq i s <;> rw [he] at h
  · obtain h | h := runCommand_cases h
    · exact .inr (.inl (hc ▸ h))
    · exact .inr (.inr (hc ▸ h))
  · obtain h | ⟨hn, -, ht⟩ | ⟨-, -, ht⟩ := runWaiting_cases h
    · exact .inr (.inl (hc ▸ h))
    · exact .inr (.inr ⟨hc ▸ hn, ht⟩)
    · exact .inl ht

theorem ite_some_eq_none {α : Type} {p : Prop} [Decidable p] (a : α) (r : Option α) :
    (if p then some a else r) = none ↔ ¬ p ∧ r = none := by
  split <;> simp [*]

theorem expectedError_none_iff (i : Instr) (s : State) : expectedError i s = none ↔
    s.mode ∈ allowedModes i ∧ phaseHolds s i = true ∧ i.operandsLegal s.cfg = true ∧
    (∀ n ∈ pushedBy s.cfg i, s.mixer.count.toNat + n ≤ s.mixer.n.toNat) ∧
    (needsCount i = true → s.mixer.count = s.mixer.n) := by
  simp only [expectedError, ite_some_eq_none]
  simp

theorem ofNat_immNat (imm : Half) : BitVec.ofNat 16 (immNat imm) = imm := by simp [immNat]

/-! ### Invariants -/

/-- An invariant that a fault keeps, and that the effect of each command keeps once its checks pass, is kept by a step. -/
theorem step_keeps {P : State → Prop} {s t : State} (hs : P s) (h : step s = .next t)
    (hfault : ∀ code hdr n, P (takeFault code hdr (consume n s)))
    (heffect : ∀ i, s.cfg.wf = true → expectedError i s = none → P (effectOf i (consume i.words s))) : P t := by
  obtain ⟨hw, rfl | ⟨code, hdr, rfl⟩ | ⟨i, -, -, hexec⟩⟩ := step_cases h
  · exact hs
  · exact hfault code hdr _
  · obtain rfl | ⟨code, -, rfl⟩ | ⟨hnone, rfl⟩ := exec_outcome hexec
    · exact hs
    · exact hfault code i.header _
    · exact heffect i hw hnone

end Sys2Proof.Machine
end

section
/-! What a coded bit (40_pipeline.md R173 to R177) and a session start write, and what they leave alone. -/

namespace Sys2Proof.Machine

/-! ### ADVANCE (R175) -/

/-- C0 with the bit `y` shifted in. -/
def pushBit (c0 : BitVec 9) (y : Bool) : BitVec 9 := (c0 <<< 1) ||| BitVec.ofNat 9 (bitNat y)

theorem advance_of_last {s : State} (h : s.bpos.toNat = 7) (y : Bool) :
    advance y s = byteBoundary ((pushBit s.c0 y - 256).setWidth 8) s := by
  simp [advance, pushBit, h]

theorem advance_of_inside {s : State} (h : s.bpos.toNat ≠ 7) (y : Bool) :
    advance y s = { s with
      c0 := pushBit s.c0 y
      bpos := BitVec.ofNat 3 (s.bpos.toNat + 1)
      cm := if s.bpos.toNat = 1 ∨ s.bpos.toNat = 4 then cmResolve s.cfg (pushBit s.c0 y) s.cm else s.cm } := by
  simp only [advance, Nat.reduceEqDiff, h, if_false, pushBit]
  split <;> rfl

/-- ADVANCE writes the position, the context map and, at a byte boundary, the forest. -/
theorem advance_fields (y : Bool) (s : State) :
    advance y s = { s with
      bpos := (advance y s).bpos, c0 := (advance y s).c0, c1 := (advance y s).c1
      cm := (advance y s).cm, dmc := (advance y s).dmc } := by
  by_cases h : s.bpos.toNat = 7
  · rw [advance_of_last h]; rfl
  · rw [advance_of_inside h]

theorem advance_cm_keeps {P : ContextMap → Prop} {s : State} (hs : P s.cm)
    (hresolve : ∀ c0, P (cmResolve s.cfg c0 s.cm)) (hboundary : ∀ byte, P (cmBoundary s.cfg byte s.cm)) (y : Bool) :
    P (advance y s).cm := by
  by_cases h : s.bpos.toNat = 7
  · rw [advance_of_last h]; exact hboundary _
  · rw [advance_of_inside h]
    dsimp only
    split
    · exact hresolve _
    · exact hs

theorem advance_dmc_keeps {P : Forest → Prop} {s : State} (hs : P s.dmc)
    (hboundary : ∀ byte, P (dmcBoundary s.cfg byte s.dmc)) (y : Bool) : P (advance y s).dmc := by
  by_cases h : s.bpos.toNat = 7
  · rw [advance_of_last h]; exact hboundary _
  · rw [advance_of_inside h]; exact hs

/-! ### What follows CODE (R173) -/

section
variable (pr : Prediction) (y : Bool) (s : State)

@[simp] theorem afterCode_cfg : (afterCode pr y s).cfg = s.cfg := by
  rw [afterCode, advance_fields]; rfl

@[simp] theorem afterCode_coder : (afterCode pr y s).coder = { s.coder with lastP := BitVec.ofNat 12 pr.pFinal } := by
  rw [afterCode, advance_fields]; rfl

@[simp] theorem afterCode_mixer : (afterCode pr y s).mixer = trainMixer pr y s.mixer := by
  rw [afterCode, advance_fields]; rfl

@[simp] theorem afterCode_apm : (afterCode pr y s).apm = trainApm pr y s.apm := by
  rw [afterCode, advance_fields]; rfl

end

/-- What the three operations of a coded bit on the context map keep, the bit keeps. -/
theorem afterCode_cm_keeps {P : ContextMap → Prop} {s : State} (hs : P s.cm)
    (hupdate : ∀ bpos c0 y m, P m → P (cmUpdateAll s.cfg bpos c0 y m))
    (hresolve : ∀ c0 m, P m → P (cmResolve s.cfg c0 m)) (hboundary : ∀ byte m, P m → P (cmBoundary s.cfg byte m)) (pr : Prediction) (y : Bool) : P (afterCode pr y s).cm :=
  have htrained := hupdate s.bpos s.c0 y _ hs
  advance_cm_keeps (s := update pr y (setLastP pr s)) htrained (fun _ => hresolve _ _ htrained)
    (fun _ => hboundary _ _ htrained) y

/-- What the two operations of a coded bit on the forest keep, the bit keeps. -/
theorem afterCode_dmc_keeps {P : Forest → Prop} {s : State} (hs : P s.dmc)
    (hupdate : ∀ y f, P f → P (dmcUpdateAll s.cfg y f)) (hboundary : ∀ byte f, P f → P (dmcBoundary s.cfg byte f))
    (pr : Prediction) (y : Bool) : P (afterCode pr y s).dmc :=
  have htrained := hupdate y _ hs
  advance_dmc_keeps (s := update pr y (setLastP pr s)) htrained (fun _ => hboundary _ _ htrained) y

/-! ### CODE (R206, R207) -/

/-- Coding writes the bounds, OUTCNT and the archive-out port. -/
theorem codeEnc_fields (p : Nat) (y : Bool) (s : State) :
    codeEnc p y s = { s with
      coder := { s.coder with x1 := (codeInterval y p s.coder).2.1, x2 := (codeInterval y p s.coder).2.2 }
      outCnt := (codeEnc p y s).outCnt, ports := (codeEnc p y s).ports } := by
  rw [codeEnc, outBytes_eq]; rfl

/-- Decoding writes the bounds, the window, INCNT and the archive-in port. -/
theorem codeDec_fields (p : Nat) (y : Bool) (s : State) :
    codeDec p y s = { s with
      coder := { s.coder with
        x1 := (codeInterval y p s.coder).2.1, x2 := (codeInterval y p s.coder).2.2, x := (codeDec p y s).coder.x }
      inCnt := (codeDec p y s).inCnt, ports := (codeDec p y s).ports } := by
  rw [codeDec, shiftInBytes_eq]; rfl

/-! ### The session commands (R201, R202, R208) -/

/-- START_DEC is MODEL_INIT but for the mode, the window, INCNT and the archive-in port. -/
theorem startDecEffect_fields (s : State) :
    startDecEffect s = { modelInit s with
      coder := { freshCoder with x := (startDecEffect s).coder.x }
      inCnt := (startDecEffect s).inCnt, ports := (startDecEffect s).ports, mode := .dec } := by
  rw [startDecEffect, shiftInBytes_eq]; rfl

/-- FLUSH writes the mode, OUTCNT and the archive-out port. -/
theorem flushEffect_fields (s : State) :
    flushEffect s = { s with
      outCnt := (flushEffect s).outCnt, ports := (flushEffect s).ports, mode := .idle } := by
  rw [flushEffect, outBytes_eq]

/-! ### APM training (R309) -/

/-- Training writes an entry; APM_CTX, APM_RATE and APM_EN stay. -/
theorem trainApm_fields (pr : Prediction) (y : Bool) (a : Apm) :
    trainApm pr y a = { a with entries := (trainApm pr y a).entries } := by
  unfold trainApm
  split <;> rfl

/-! ### Pushes (R172) -/

/-- Pushes write MX_COUNT and MXIN. -/
theorem pushInputs_fields (m : Mixer) (vs : List Half) :
    pushInputs m vs = { m with count := (pushInputs m vs).count, inputs := (pushInputs m vs).inputs } := by
  refine foldl_keeps (fun t => t = { m with count := t.count, inputs := t.inputs }) pushInput vs m rfl fun t v _ ht => ?_
  unfold pushInput setInput
  rw [ht]

end Sys2Proof.Machine
end

section
/-! Every step keeps the canonical form of the tables: each of them is written by `tableSet` alone, or emptied. -/

namespace Sys2Proof.Machine

/-! ### The context map -/

/-- The four tables of the context map are in canonical form. -/
def CmCanonical (m : ContextMap) : Prop :=
  tableWf slotInit m.slots = true ∧ tableWf mruInit m.mru = true ∧ tableWf smInit m.sm1 = true ∧
  tableWf smInit m.sm2 = true

theorem freshCm_canonical (c : Cfg) (m : ContextMap) : CmCanonical (freshCm c m) := by simp [CmCanonical]

theorem ite_canonical {p : Prop} [Decidable p] {a b : ContextMap} (ha : CmCanonical a) (hb : CmCanonical b) :
    CmCanonical (if p then a else b) := by
  split
  · exact ha
  · exact hb

section
variable {m : ContextMap} (h : CmCanonical m)
include h

theorem setSlot_canonical (b k : Nat) (v : Slot) : CmCanonical (setSlot m b k v) :=
  have ⟨hslots, hmru, hsm1, hsm2⟩ := h
  ⟨setSlot_wf m b k v hslots, hmru, hsm1, hsm2⟩

theorem setHandleSlot_canonical (d : Handle) (v : Slot) : CmCanonical (setHandleSlot m d v) := setSlot_canonical h _ _ _

theorem setMru_canonical (b : Nat) (v : Mru) : CmCanonical (setMru m b v) :=
  have ⟨hslots, hmru, hsm1, hsm2⟩ := h
  ⟨hslots, setMru_wf m b v hmru, hsm1, hsm2⟩

theorem setSm1_canonical (l k : Nat) (v : Half) : CmCanonical (setSm1 m l k v) :=
  have ⟨hslots, hmru, hsm1, hsm2⟩ := h
  ⟨hslots, hmru, setSm1_wf m l k v hsm1, hsm2⟩

theorem setSm2_canonical (l k : Nat) (v : Half) : CmCanonical (setSm2 m l k v) :=
  have ⟨hslots, hmru, hsm1, hsm2⟩ := h
  ⟨hslots, hmru, hsm1, setSm2_wf m l k v hsm2⟩

theorem setLane_canonical (l : Nat) (v : Lane) : CmCanonical (setLane m l v) := h

theorem touch_canonical (b k : Nat) : CmCanonical (touch b k m) := by
  unfold touch
  dsimp only
  split
  · exact h
  · exact setMru_canonical h _ _

theorem find_canonical (n b : Nat) (chk : Half) : CmCanonical (find n b chk m).2 := by
  rcases find_shape n b chk m with e | e <;> rw [e]
  · exact touch_canonical h _ _
  · exact touch_canonical (setSlot_canonical h _ _ _) _ _

theorem cmSetLane_canonical (c : Cfg) (c0 : BitVec 9) (l : Nat) (fp : Long) : CmCanonical (cmSetLane c c0 l fp m) :=
  setLane_canonical (find_canonical (setLane_canonical h _ _) _ _ _) _ _

theorem cmUpdate_canonical (c : Cfg) (bpos : BitVec 3) (c0 : BitVec 9) (y : Bool) (l : Nat) :
    CmCanonical (cmUpdate c bpos c0 y l m) :=
  have hsm1 {p : Prop} [Decidable p] {k : Nat} {v : Half} : CmCanonical (if p then setSm1 m l k v else m) :=
    ite_canonical (setSm1_canonical h l k v) h
  setHandleSlot_canonical (ite_canonical (setSm2_canonical hsm1 _ _ _) hsm1) _ _

theorem cmUpdateAll_canonical (c : Cfg) (bpos : BitVec 3) (c0 : BitVec 9) (y : Bool) :
    CmCanonical (cmUpdateAll c bpos c0 y m) :=
  forValidLanes_keeps CmCanonical c _ m h fun _ _ _ _ ht => cmUpdate_canonical ht c bpos c0 y _

theorem cmResolve_canonical (c : Cfg) (c0 : BitVec 9) : CmCanonical (cmResolve c c0 m) :=
  forValidLanes_keeps CmCanonical c _ m h fun _ _ _ _ ht => setLane_canonical (find_canonical ht _ _ _) _ _

theorem cmBoundary_canonical (c : Cfg) (byte : Byte) : CmCanonical (cmBoundary c byte m) :=
  forValidLanes_keeps CmCanonical c _ m h fun _ _ _ _ ht => setHandleSlot_canonical ht _ _

end

/-! ### The DMC forest -/

/-- The two tables of a DMC predictor are in canonical form. -/
def InstCanonical (d : DmcInst) : Prop := tableWf nodeInit d.nodes = true ∧ tableWf smInit d.smd = true

/-- The tables of every DMC predictor are in canonical form. -/
def ForestCanonical (f : Forest) : Prop := ∀ d ∈ f.insts, InstCanonical d

theorem freshForest_canonical (c : Cfg) (f : Forest) : ForestCanonical (freshForest c f) := by
  simp [ForestCanonical, InstCanonical, freshForest, freshInst]

section
variable {d : DmcInst} (h : InstCanonical d)
include h

theorem setNode_canonical (n : Nat) (v : Node) : InstCanonical (setNode d n v) := ⟨setNode_wf d n v h.1, h.2⟩

theorem setSmd_canonical (st : Byte) (v : Half) : InstCanonical (setSmd d st v) := ⟨h.1, setSmd_wf d st v h.2⟩

theorem dmcStateUpdate_canonical (c : Cfg) (k : Nat) (y : Bool) : InstCanonical (dmcStateUpdate c k y d) :=
  setNode_canonical (setSmd_canonical h _ _) _ _

/-- CLONE writes four times: the clone's counts, those of the node it halves, the clone's children, and the link to it. -/
theorem dmcClone_canonical (thrCap k t : Nat) (y : Bool) (n total : Nat) :
    InstCanonical (dmcClone thrCap k t y n total d) := by
  unfold dmcClone
  extract_lets _ raised _ _ _ counted _ halved _ linked _ grown
  have hraised : InstCanonical raised := ⟨h.1, h.2⟩
  have hcounted : InstCanonical counted := setNode_canonical hraised _ _
  have hhalved : InstCanonical halved := setNode_canonical hcounted _ _
  have hlinked : InstCanonical linked := setNode_canonical hhalved _ _
  have hgrown : InstCanonical grown := setNode_canonical hlinked _ _
  clear_value grown
  exact hgrown

theorem dmcGrow_canonical (c : Cfg) (i k : Nat) (y : Bool) (n : Nat) : InstCanonical (dmcGrow c i k y n d) := by
  unfold dmcGrow
  dsimp only
  split
  · split
    · exact dmcClone_canonical h _ _ _ _ _ _
    · exact h
  · exact h

theorem dmcUpdate_canonical (c : Cfg) (y : Bool) (i : Nat) : InstCanonical (dmcUpdate c y i d) :=
  dmcGrow_canonical (dmcStateUpdate_canonical (setNode_canonical h _ _) _ _ _) _ _ _ _ _

theorem dmcByteReset_canonical (c : Cfg) (byte : Byte) (i : Nat) : InstCanonical (dmcByteReset c byte i d) := by
  unfold dmcByteReset
  split
  · exact ⟨tableWf_nil _, h.2⟩
  · exact h

end

theorem dmcUpdateAll_canonical (c : Cfg) (y : Bool) {f : Forest} (h : ForestCanonical f) :
    ForestCanonical (dmcUpdateAll c y f) := by
  intro d hd
  rw [dmcUpdateAll_insts, List.mem_mapIdx] at hd
  obtain ⟨i, hi, rfl⟩ := hd
  exact dmcUpdate_canonical (h _ (List.getElem_mem hi)) c y i

theorem dmcBoundary_canonical (c : Cfg) (byte : Byte) {f : Forest} (h : ForestCanonical f) :
    ForestCanonical (dmcBoundary c byte f) := by
  intro d hd
  rw [dmcBoundary_insts, List.mem_mapIdx] at hd
  obtain ⟨i, hi, rfl⟩ := hd
  exact dmcByteReset_canonical (h _ (List.getElem_mem hi)) c byte i

/-! ### The mixer and the APM -/

theorem trainBank_canonical (pr : Prediction) (y : Bool) {m : Mixer} (h : tableWf weightInit m.weights = true) (j : Nat) :
    tableWf weightInit (trainBank pr y m j).weights = true :=
  foldl_keeps (fun t => tableWf weightInit t.weights = true) _ _ m h fun _ _ _ ht => setWeight_wf _ _ _ _ _ ht

theorem trainMixer_canonical (pr : Prediction) (y : Bool) {m : Mixer} (h : tableWf weightInit m.weights = true) :
    tableWf weightInit (trainMixer pr y m).weights = true := by
  have hfirst : tableWf weightInit (trainFirst pr y m).weights = true :=
    foldl_keeps (fun t => tableWf weightInit t.weights = true) _ _ m h fun _ j _ ht => trainBank_canonical pr y ht j
  unfold trainMixer trainSecond
  split <;> exact hfirst

theorem trainApm_canonical (pr : Prediction) (y : Bool) {a : Apm} (h : tableWf apmInit a.entries = true) :
    tableWf apmInit (trainApm pr y a).entries = true := by
  unfold trainApm
  split
  · exact setApm_wf _ _ _ _ h
  · exact h

/-! ### The step -/

/-- The canonical form, unit by unit. -/
structure TablesCanonical (s : State) : Prop where
  weights : tableWf weightInit s.mixer.weights = true
  entries : tableWf apmInit s.apm.entries = true
  context : CmCanonical s.cm
  forest : ForestCanonical s.dmc

theorem memory_wf_iff (s : State) : Memory.wf s = true ↔ TablesCanonical s := by
  constructor
  · intro h
    simp only [Memory.wf, Bool.and_eq_true, List.all_eq_true] at h
    obtain ⟨⟨⟨⟨⟨⟨hweights, hentries⟩, hslots⟩, hmru⟩, hsm1⟩, hsm2⟩, hforest⟩ := h
    exact ⟨hweights, hentries, ⟨hslots, hmru, hsm1, hsm2⟩, hforest⟩
  · intro ⟨hweights, hentries, ⟨hslots, hmru, hsm1, hsm2⟩, hforest⟩
    simp only [Memory.wf, Bool.and_eq_true, List.all_eq_true]
    exact ⟨⟨⟨⟨⟨⟨hweights, hentries⟩, hslots⟩, hmru⟩, hsm1⟩, hsm2⟩, hforest⟩

section
variable {s : State} (h : TablesCanonical s)
include h

theorem afterCode_canonical (pr : Prediction) (y : Bool) : TablesCanonical (afterCode pr y s) where
  weights := by rw [afterCode_mixer]; exact trainMixer_canonical pr y h.weights
  entries := by rw [afterCode_apm]; exact trainApm_canonical pr y h.entries
  context := afterCode_cm_keeps h.context (fun _ _ _ _ ht => cmUpdateAll_canonical ht _ _ _ _)
    (fun _ _ ht => cmResolve_canonical ht _ _) (fun _ _ ht => cmBoundary_canonical ht _ _) pr y
  forest := afterCode_dmc_keeps h.forest (fun y _ ht => dmcUpdateAll_canonical _ y ht)
    (fun byte _ ht => dmcBoundary_canonical _ byte ht) pr y

theorem result_canonical (w : Word) : TablesCanonical (result w s) := ⟨h.weights, h.entries, h.context, h.forest⟩

end

theorem modelInit_canonical (s : State) : TablesCanonical (modelInit s) :=
  ⟨tableWf_nil _, tableWf_nil _, freshCm_canonical _ _, freshForest_canonical _ _⟩

theorem effectOf_canonical (i : Instr) {s : State} (h : TablesCanonical s) : TablesCanonical (effectOf i s) := by
  have ⟨hweights, hentries, hcontext, hforest⟩ := h
  have hpush (vs : List Half) : tableWf weightInit (pushInputs s.mixer vs).weights = true := by
    rw [pushInputs_fields]; exact hweights
  have hinit := modelInit_canonical s
  cases i
  case startEnc => exact ⟨hinit.weights, hinit.entries, hinit.context, hinit.forest⟩
  case startDec =>
    rw [effectOf, startDecEffect_fields]
    exact ⟨hinit.weights, hinit.entries, hinit.context, hinit.forest⟩
  case flush =>
    rw [effectOf, flushEffect_fields]
    exact ⟨hweights, hentries, hcontext, hforest⟩
  case encBit imm =>
    refine afterCode_canonical ?_ _ _
    rw [codeEnc_fields]
    exact ⟨hweights, hentries, hcontext, hforest⟩
  case decBit =>
    refine result_canonical (afterCode_canonical ?_ _ _) _
    rw [codeDec_fields]
    exact ⟨hweights, hentries, hcontext, hforest⟩
  case cmSet => exact ⟨hweights, hentries, cmSetLane_canonical hcontext _ _ _ _, hforest⟩
  case cmMix | dmcMix => exact ⟨hpush _, hentries, hcontext, hforest⟩
  all_goals exact ⟨hweights, hentries, hcontext, hforest⟩

/-- Settles O53: a fault writes no table, and every effect keeps the canonical form, unit by unit. -/
theorem stepKeepsTablesCanonical : Obligations.StepKeepsTablesCanonical := by
  intro s t hs hstep
  rw [memory_wf_iff] at hs ⊢
  refine step_keeps hs hstep (fun _ _ _ => ?_) fun i _ _ => effectOf_canonical i ?_
  all_goals exact ⟨hs.weights, hs.entries, hs.context, hs.forest⟩

end Sys2Proof.Machine
end

section
/-! Every step keeps the partial byte (10_state.md R46) and the coder interval (41_coder.md R205) legal. -/

namespace Sys2Proof.Machine

/-- A field shifted left with a narrower field put into the freed bits. -/
theorem toNat_shiftLeft_or {w i : Nat} (hi : i ≤ w) (x b : BitVec w) (hb : b.toNat < 2 ^ i) :
    ((x <<< i) ||| b).toNat = x.toNat % 2 ^ (w - i) * 2 ^ i + b.toNat := by
  have hw : 2 ^ w = 2 ^ (w - i) * 2 ^ i := by rw [← pow_add, Nat.sub_add_cancel hi]
  rw [BitVec.toNat_or, BitVec.toNat_shiftLeft, Nat.shiftLeft_eq, hw, Nat.mul_mod_mul_right, ← Nat.shiftLeft_eq,
    ← Nat.shiftLeft_add_eq_or_of_lt hb, Nat.shiftLeft_eq]

/-! ### The normalisation loop (R204) -/

theorem topByte_toNat (w : Word) : (topByte w).toNat = w.toNat / 2 ^ 24 := by
  have := w.isLt
  rw [topByte, BitVec.extractLsb'_toNat, Nat.shiftRight_eq_div_pow]
  omega

theorem topByte_eq_iff (a b : Word) : topByte a = topByte b ↔ a.toNat / 2 ^ 24 = b.toNat / 2 ^ 24 := by
  rw [← BitVec.toNat_inj, topByte_toNat, topByte_toNat]

theorem shiftLow_toNat (w : Word) : (w <<< 8).toNat = w.toNat % 2 ^ 24 * 2 ^ 8 := by
  simpa using toNat_shiftLeft_or (i := 8) (by omega) w 0 (by decide)

theorem shiftHigh_toNat (w : Word) : ((w <<< 8) ||| 255).toNat + 1 = (w.toNat % 2 ^ 24 + 1) * 2 ^ 8 := by
  rw [toNat_shiftLeft_or (i := 8) (by omega) w 255 (by decide)]
  simp
  omega

/-- The interval of R205: ordered, with different top bytes. -/
def IntervalLegal (x1 x2 : Word) : Prop := x1.toNat < x2.toNat ∧ topByte x1 ≠ topByte x2

theorem interval_full : IntervalLegal 0 0xFFFFFFFF := ⟨by decide, by decide⟩

/-- Each pass shifts zeros into the low bound and ones into the high bound, so after four passes they are 0 and 2^32 - 1:
with `k` passes made, 2^(8k) divides the low bound and the successor of the high bound. -/
theorem settle_legal : ∀ (n k : Nat) (x1 x2 : Word), n + k = 4 → x1.toNat ≤ x2.toNat →
    2 ^ (8 * k) ∣ x1.toNat → 2 ^ (8 * k) ∣ x2.toNat + 1 → IntervalLegal (settle n x1 x2).2.1 (settle n x1 x2).2.2
  | 0, k, x1, x2, hk, _, hlow, hhigh => by
    obtain rfl : k = 4 := by omega
    have h1 := x1.isLt
    have h2 := x2.isLt
    simp only [settle, IntervalLegal, Ne, topByte_eq_iff]
    omega
  | n + 1, k, x1, x2, hk, hle, hlow, hhigh => by
    rw [settle]
    split
    · next htop =>
      rw [topByte_eq_iff] at htop
      have hpow : 2 ^ (8 * (k + 1)) = 2 ^ (8 * k) * 2 ^ 8 := by rw [← pow_add]; rfl
      have h24 : 2 ^ (8 * k) ∣ 2 ^ 24 := pow_dvd_pow 2 (by omega)
      refine settle_legal n (k + 1) _ _ (by omega) ?_ ?_ ?_
      · have := shiftLow_toNat x1
        have := shiftHigh_toNat x2
        omega
      · rw [shiftLow_toNat, hpow]
        exact Nat.mul_dvd_mul_right ((Nat.dvd_mod_iff h24).mpr hlow) _
      · rw [shiftHigh_toNat, hpow]
        refine Nat.mul_dvd_mul_right ?_ _
        have hsplit : x2.toNat + 1 = 2 ^ 24 * (x2.toNat / 2 ^ 24) + (x2.toNat % 2 ^ 24 + 1) := by omega
        exact (Nat.dvd_add_right (h24.mul_right _)).mp (hsplit ▸ hhigh)
    · next htop =>
      refine ⟨hle.lt_of_ne fun h => htop ?_, htop⟩
      rw [BitVec.eq_of_toNat_eq h]

theorem normalise_legal {x1 x2 : Word} (h : x1.toNat ≤ x2.toNat) :
    IntervalLegal (normalise x1 x2).2.1 (normalise x1 x2).2.2 :=
  settle_legal 4 0 x1 x2 rfl h (one_dvd _) (one_dvd _)

/-! ### SPLIT and NARROW (R203) -/

theorem splitPoint_toNat {x1 x2 : Word} (h : x1.toNat ≤ x2.toNat) {p : Nat} (hp : p ≤ 4096) :
    (splitPoint x1 x2 p).toNat = x1.toNat + (x2.toNat - x1.toNat) / 4096 * p := by
  have h2 := x2.isLt
  have hpart : (x2.toNat - x1.toNat) / 4096 * p ≤ x2.toNat - x1.toNat :=
    (Nat.mul_le_mul_left _ hp).trans (Nat.div_mul_le_self _ _)
  have hdiff : (x2 - x1).toNat = x2.toNat - x1.toNat := BitVec.toNat_sub_of_le (BitVec.le_def.mpr h)
  have hp32 : p % 2 ^ 32 = p := Nat.mod_eq_of_lt (by omega)
  rw [splitPoint, BitVec.toNat_add, BitVec.toNat_mul, BitVec.toNat_ushiftRight, hdiff, BitVec.toNat_ofNat, hp32,
    Nat.shiftRight_eq_div_pow]
  simp only [Nat.reducePow]
  generalize (x2.toNat - x1.toNat) / 4096 * p = q at *
  omega

/-- Neither half of the interval is empty. -/
theorem splitPoint_bounds {x1 x2 : Word} (h : x1.toNat < x2.toNat) {p : Nat} (hp : p ≤ 4094) :
    x1.toNat ≤ (splitPoint x1 x2 p).toNat ∧ (splitPoint x1 x2 p).toNat < x2.toNat := by
  rw [splitPoint_toNat h.le (by omega)]
  have hpart : (x2.toNat - x1.toNat) / 4096 * p ≤ (x2.toNat - x1.toNat) / 4096 * 4094 := Nat.mul_le_mul_left _ hp
  omega

theorem narrow_le {x1 x2 xmid : Word} (hlow : x1.toNat ≤ xmid.toNat) (hhigh : xmid.toNat < x2.toNat) (y : Bool) :
    (narrow y x1 x2 xmid).1.toNat ≤ (narrow y x1 x2 xmid).2.toNat := by
  cases y
  · have := x2.isLt
    have hnext : (xmid + 1).toNat = xmid.toNat + 1 := BitVec.toNat_add_of_lt (by simp; omega)
    exact hnext.trans_le hhigh
  · exact hlow

theorem codeInterval_legal {k : Coder} (h : k.x1.toNat < k.x2.toNat) {p : Nat} (hp : p ≤ 4094) (y : Bool) :
    IntervalLegal (codeInterval y p k).2.1 (codeInterval y p k).2.2 :=
  have ⟨hlow, hhigh⟩ := splitPoint_bounds h hp
  normalise_legal (narrow_le hlow hhigh y)

theorem predict_pFinal_bounds (m : Mixer) (a : Apm) : 1 ≤ (predict m a).pFinal ∧ (predict m a).pFinal ≤ 4094 := by
  unfold predict
  dsimp only
  split
  · exact clampP_bounds _
  · exact squash_bounds _

/-! ### The partial byte (R46, R175) -/

theorem pushBit_toNat {c0 : BitVec 9} (h : c0.toNat < 256) (y : Bool) :
    (pushBit c0 y).toNat = 2 * c0.toNat + bitNat y := by
  have hy : (BitVec.ofNat 9 (bitNat y)).toNat = bitNat y := by cases y <;> rfl
  have hb := bitNat_le y
  rw [pushBit, toNat_shiftLeft_or (by omega) _ _ (by omega), hy]
  simp only [Nat.reduceSub, Nat.reducePow]
  omega

/-- 2^BPOS <= C0 < 2^(BPOS+1). -/
def PartialByteLegal (bpos : BitVec 3) (c0 : BitVec 9) : Prop :=
  2 ^ bpos.toNat ≤ c0.toNat ∧ c0.toNat < 2 ^ (bpos.toNat + 1)

theorem partialByte_start : PartialByteLegal 0 1 := ⟨by decide, by decide⟩

theorem advance_partialByte {s : State} (h : PartialByteLegal s.bpos s.c0) (y : Bool) :
    PartialByteLegal (advance y s).bpos (advance y s).c0 := by
  obtain ⟨hlow, hhigh⟩ := h
  by_cases hlast : s.bpos.toNat = 7
  · rw [advance_of_last hlast]
    exact partialByte_start
  · have hbpos := s.bpos.isLt
    have hnext : (BitVec.ofNat 3 (s.bpos.toNat + 1)).toNat = s.bpos.toNat + 1 := by
      rw [BitVec.toNat_ofNat]; omega
    have hpow : 2 ^ (s.bpos.toNat + 1) ≤ 2 ^ 7 := Nat.pow_le_pow_right (by omega) (by omega)
    have hbit := bitNat_le y
    rw [advance_of_inside hlast]
    simp only [PartialByteLegal, hnext, pushBit_toNat (c0 := s.c0) (by omega)]
    rw [pow_succ] at hhigh
    rw [pow_succ, pow_succ]
    omega

/-! ### The step -/

theorem positionInv_iff (s : State) :
    PositionInv s ↔ PartialByteLegal s.bpos s.c0 ∧ IntervalLegal s.coder.x1 s.coder.x2 :=
  ⟨fun ⟨hlow, hhigh, hlt, htop⟩ => ⟨⟨hlow, hhigh⟩, hlt, htop⟩,
    fun ⟨⟨hlow, hhigh⟩, hlt, htop⟩ => ⟨hlow, hhigh, hlt, htop⟩⟩

theorem modelInit_position (s : State) : PositionInv (modelInit s) :=
  (positionInv_iff _).mpr ⟨partialByte_start, interval_full⟩

theorem afterCode_position {s : State} (hbyte : PartialByteLegal s.bpos s.c0)
    (hcoder : IntervalLegal s.coder.x1 s.coder.x2) (pr : Prediction) (y : Bool) : PositionInv (afterCode pr y s) := by
  rw [positionInv_iff, afterCode_coder]
  exact ⟨advance_partialByte (s := update pr y (setLastP pr s)) hbyte y, hcoder⟩

theorem result_position {s : State} (h : PositionInv s) (w : Word) : PositionInv (result w s) :=
  ⟨h.c0Low, h.c0High, h.ordered, h.apart⟩

theorem effectOf_position (i : Instr) {s : State} (h : PositionInv s) : PositionInv (effectOf i s) := by
  have ⟨hlow, hhigh, hordered, hapart⟩ := h
  have hinit := modelInit_position s
  have hp : (predictOf s).pFinal ≤ 4094 := (predict_pFinal_bounds _ _).2
  cases i
  case startEnc => exact ⟨hinit.c0Low, hinit.c0High, hinit.ordered, hinit.apart⟩
  case startDec =>
    rw [effectOf, startDecEffect_fields]
    exact ⟨hinit.c0Low, hinit.c0High, hinit.ordered, hinit.apart⟩
  case flush =>
    rw [effectOf, flushEffect_fields]
    exact ⟨hlow, hhigh, hordered, hapart⟩
  case encBit imm =>
    refine afterCode_position ?_ ?_ _ _ <;> rw [codeEnc_fields]
    · exact ⟨hlow, hhigh⟩
    · exact codeInterval_legal hordered hp _
  case decBit =>
    refine result_position (afterCode_position ?_ ?_ _ _) _ <;> rw [codeDec_fields]
    · exact ⟨hlow, hhigh⟩
    · exact codeInterval_legal hordered hp _
  all_goals exact ⟨hlow, hhigh, hordered, hapart⟩

/-- Settles O54: coding normalises a part of the interval that is not empty, and ADVANCE moves C0 with BPOS. -/
theorem stepKeepsPositionAndInterval : Obligations.StepKeepsPositionAndInterval := fun _ _ hs hstep =>
  step_keeps hs hstep (fun _ _ _ => ⟨hs.c0Low, hs.c0High, hs.ordered, hs.apart⟩) fun i _ _ =>
    effectOf_position i ⟨hs.c0Low, hs.c0High, hs.ordered, hs.apart⟩

end Sys2Proof.Machine
end

section
/-! Every step keeps the control registers legal and the register files at their sizes (10_state.md R49, R50, R54, R57). -/

namespace Sys2Proof.Machine

/-! ### The mixer -/

/-- The mixer's part of `ShapeInv` and `ControlInv`. -/
structure MixerLegal (c : Cfg) (m : Mixer) : Prop where
  selLength : m.sel.length = c.mxNsel
  blendLength : m.blend.length = c.mxNsel
  countLeN : m.count.toNat ≤ m.n.toNat
  nLeMax : m.n.toNat ≤ c.mxMaxN
  activePos : 1 ≤ m.active.toNat
  activeLe : m.active.toNat ≤ c.mxNsel
  selLegal : ∀ j, j < c.mxNsel → selAt m j < c.mxKsel
  written : m.count.toNat ≤ m.inputs.length

section
variable {c : Cfg} {m : Mixer} (h : MixerLegal c m)
include h

theorem pushInput_legal (hroom : m.count.toNat + 1 ≤ m.n.toNat) (v : Half) : MixerLegal c (pushInput m v) := by
  have hn := m.n.isLt
  have hcount : (pushInput m v).count.toNat = m.count.toNat + 1 := BitVec.toNat_add_of_lt (by simp; omega)
  have hlength : (pushInput m v).inputs.length = max m.inputs.length (m.count.toNat + 1) := setInput_length _ _ _
  exact { h with countLeN := hcount.trans_le hroom, written := by omega }

theorem pushInputs_legal (vs : List Half) (hroom : m.count.toNat + vs.length ≤ m.n.toNat) :
    MixerLegal c (pushInputs m vs) := by
  induction vs generalizing m with
  | nil => exact h
  | cons v vs ih =>
    rw [List.length_cons] at hroom
    have hn := m.n.isLt
    have hcount : (pushInput m v).count.toNat = m.count.toNat + 1 := BitVec.toNat_add_of_lt (by simp; omega)
    exact ih (pushInput_legal h (by omega) v) (by rw [hcount, pushInput_n]; omega)

theorem select_legal {ctx : Half} (hctx : ctx.toNat < c.mxKsel) (bank : Nat) :
    MixerLegal c { m with sel := m.sel.set bank ctx } := by
  refine { h with selLength := (List.length_set ..).trans h.selLength, selLegal := fun j hj => ?_ }
  have hold := h.selLegal j hj
  simp only [selAt, List.getD_eq_getElem?_getD, List.getElem?_set] at hold ⊢
  split
  · split
    · exact hctx
    · exact (Nat.zero_le _).trans_lt hold
  · exact hold

theorem setN_legal (hcount : m.count = 0) {n : Half} (hn : n.toNat ≤ c.mxMaxN) : MixerLegal c { m with n := n } :=
  { h with countLeN := hcount ▸ Nat.zero_le _, nLeMax := hn }

theorem setActive_legal {a : BitVec 4} (hpos : 1 ≤ a.toNat) (hle : a.toNat ≤ c.mxNsel) :
    MixerLegal c { m with active := a } :=
  { h with activePos := hpos, activeLe := hle }

theorem trainMixer_legal (pr : Prediction) (y : Bool) : MixerLegal c (trainMixer pr y m) := by
  have hblend := (trainMixer_blend_length pr y m).trans h.blendLength
  rw [trainMixer_fields] at hblend ⊢
  exact { h with blendLength := hblend, countLeN := Nat.zero_le _, written := Nat.zero_le _ }

theorem freshMixer_legal : MixerLegal c (freshMixer c m) :=
  { h with blendLength := List.length_replicate, countLeN := Nat.zero_le _, written := Nat.zero_le _ }

end

/-! ### How many inputs a command pushes -/

theorem laneInputs_length (c : Cfg) (bpos : BitVec 3) (c0 : BitVec 9) (m : ContextMap) (l : Nat) :
    (laneInputs c bpos c0 m l).length = c.laneK := by
  unfold laneInputs rawInputs Cfg.laneK
  cases c.cmByteHist <;> cases (laneAt m l).valid <;> simp

theorem cmInputs_length (c : Cfg) (bpos : BitVec 3) (c0 : BitVec 9) (m : ContextMap) :
    (cmInputs c bpos c0 m).length = c.cmLanes * c.laneK := by
  simp [cmInputs, List.length_flatMap, laneInputs_length]

theorem dmcInputs_length (f : Forest) : (dmcInputs f).length = f.insts.length := List.length_map _

/-! ### The lanes -/

section
variable {m : ContextMap} {n : Nat} (h : m.lanes.length = n)
include h

theorem setLane_length (l : Nat) (v : Lane) : (setLane m l v).lanes.length = n := (List.length_set ..).trans h

theorem lookup_length (c : Cfg) (c0 : BitVec 9) (l : Nat) : (lookup c c0 l m).2.lanes.length = n := by
  rw [lookup_fields]; exact h

theorem cmSetLane_length (c : Cfg) (c0 : BitVec 9) (l : Nat) (fp : Long) : (cmSetLane c c0 l fp m).lanes.length = n :=
  setLane_length (lookup_length (setLane_length h _ _) c c0 l) _ _

theorem cmUpdateAll_length (c : Cfg) (bpos : BitVec 3) (c0 : BitVec 9) (y : Bool) :
    (cmUpdateAll c bpos c0 y m).lanes.length = n := by
  rw [(cmUpdateAll_fields c bpos c0 y m).1]; exact h

theorem cmResolve_length (c : Cfg) (c0 : BitVec 9) : (cmResolve c c0 m).lanes.length = n :=
  forValidLanes_keeps (fun t => t.lanes.length = n) c _ m h fun l _ _ _ ht => setLane_length (lookup_length ht c c0 l) _ _

theorem cmBoundary_length (c : Cfg) (byte : Byte) : (cmBoundary c byte m).lanes.length = n :=
  (List.length_map _).trans <|
    forValidLanes_keeps (fun t => t.lanes.length = n) c _ m h fun _ _ _ _ ht => ht

end

/-! ### The step -/

/-- `ShapeInv` and `ControlInv`, unit by unit. -/
structure RegistersLegal (s : State) : Prop where
  mixer : MixerLegal s.cfg s.mixer
  apmCtx : s.apm.ctx.toNat < s.cfg.apmNctx
  apmRate : 1 ≤ s.apm.rate.toNat
  lanes : s.cm.lanes.length = s.cfg.cmLanes
  insts : s.dmc.insts.length = dmcN

theorem registersLegal_iff (s : State) : RegistersLegal s ↔ ShapeInv s ∧ ControlInv s := by
  constructor
  · intro ⟨hmixer, hctx, hrate, hlanes, hinsts⟩
    exact ⟨⟨hmixer.selLength, hmixer.blendLength, hlanes, hinsts⟩,
      { hmixer with apmCtx := hctx, apmRate := hrate }⟩
  · intro ⟨hshape, hcontrol⟩
    exact ⟨{ hcontrol with selLength := hshape.sel, blendLength := hshape.blend }, hcontrol.apmCtx, hcontrol.apmRate,
      hshape.lanes, hshape.insts⟩

section
variable {s : State} (h : RegistersLegal s)
include h

theorem modelInit_registers : RegistersLegal (modelInit s) where
  mixer := freshMixer_legal h.mixer
  apmCtx := h.apmCtx
  apmRate := h.apmRate
  lanes := List.length_replicate
  insts := by simp [freshForest]

theorem afterCode_registers (pr : Prediction) (y : Bool) : RegistersLegal (afterCode pr y s) where
  mixer := by rw [afterCode_mixer, afterCode_cfg]; exact trainMixer_legal h.mixer pr y
  apmCtx := by rw [afterCode_apm, afterCode_cfg, trainApm_fields]; exact h.apmCtx
  apmRate := by rw [afterCode_apm, trainApm_fields]; exact h.apmRate
  lanes := by
    rw [afterCode_cfg]
    exact afterCode_cm_keeps (P := fun m => m.lanes.length = s.cfg.cmLanes) h.lanes
      (fun _ _ _ _ ht => cmUpdateAll_length ht _ _ _ _) (fun _ _ ht => cmResolve_length ht _ _)
      (fun _ _ ht => cmBoundary_length ht _ _) pr y
  insts := afterCode_dmc_keeps (P := fun f => f.insts.length = dmcN) h.insts
    (fun _ _ ht => (dmcUpdateAll_length _ _ _).trans ht) (fun _ _ ht => (dmcBoundary_length _ _ _).trans ht) pr y

theorem result_registers (w : Word) : RegistersLegal (result w s) := ⟨h.mixer, h.apmCtx, h.apmRate, h.lanes, h.insts⟩

theorem consume_registers (n : Nat) : RegistersLegal (consume n s) := ⟨h.mixer, h.apmCtx, h.apmRate, h.lanes, h.insts⟩

/-- The checks a command passed are those that keep the registers legal. -/
theorem effectOf_registers (i : Instr) (hw : s.cfg.wf = true) (hchecks : expectedError i s = none) :
    RegistersLegal (effectOf i s) := by
  have ⟨hmixer, hctx, hrate, hlanes, hinsts⟩ := h
  obtain ⟨-, hphase, hlegal, hroom, -⟩ := (expectedError_none_iff i s).mp hchecks
  have hinit := modelInit_registers h
  cases i
  case startEnc => exact ⟨hinit.mixer, hinit.apmCtx, hinit.apmRate, hinit.lanes, hinit.insts⟩
  case startDec =>
    rw [effectOf, startDecEffect_fields]
    exact ⟨hinit.mixer, hinit.apmCtx, hinit.apmRate, hinit.lanes, hinit.insts⟩
  case flush =>
    rw [effectOf, flushEffect_fields]
    exact ⟨hmixer, hctx, hrate, hlanes, hinsts⟩
  case encBit imm =>
    refine afterCode_registers ?_ _ _
    rw [codeEnc_fields]
    exact ⟨hmixer, hctx, hrate, hlanes, hinsts⟩
  case decBit =>
    refine result_registers (afterCode_registers ?_ _ _) _
    rw [codeDec_fields]
    exact ⟨hmixer, hctx, hrate, hlanes, hinsts⟩
  case cmSet => exact ⟨hmixer, hctx, hrate, cmSetLane_length hlanes _ _ _ _, hinsts⟩
  case cmMix =>
    refine ⟨pushInputs_legal hmixer _ ?_, hctx, hrate, hlanes, hinsts⟩
    rw [cmInputs_length]
    exact hroom _ rfl
  case mxAdd => exact ⟨pushInput_legal hmixer (hroom 1 rfl) _, hctx, hrate, hlanes, hinsts⟩
  case dmcMix =>
    refine ⟨pushInputs_legal hmixer _ ?_, hctx, hrate, hlanes, hinsts⟩
    rw [dmcInputs_length, hinsts]
    exact hroom _ rfl
  case mxSelect bank ctx =>
    simp only [Instr.operandsLegal, Bool.and_eq_true, decide_eq_true_eq] at hlegal
    exact ⟨select_legal hmixer hlegal.2 _, hctx, hrate, hlanes, hinsts⟩
  case mxSetN imm =>
    have hcount : s.mixer.count = 0 := by simpa [phaseHolds] using hphase
    have hmax : imm.toNat ≤ s.cfg.mxMaxN := ((within_iff ..).mp hlegal).2
    rw [effectOf, ofNat_immNat]
    exact ⟨setN_legal hmixer hcount hmax, hctx, hrate, hlanes, hinsts⟩
  case mxSetActive imm =>
    obtain ⟨hpos, hle⟩ := (within_iff ..).mp hlegal
    have hnsel := (mxNsel_bounds hw).2
    have hactive : (BitVec.ofNat 4 (immNat imm)).toNat = imm.toNat := Nat.mod_eq_of_lt (by unfold immNat; omega)
    exact ⟨setActive_legal hmixer (hactive ▸ hpos) (hactive ▸ hle), hctx, hrate, hlanes, hinsts⟩
  case apmSetCtx imm =>
    have himm : imm.toNat < s.cfg.apmNctx := by simpa [Instr.operandsLegal] using hlegal
    rw [effectOf, ofNat_immNat]
    exact ⟨hmixer, himm, hrate, hlanes, hinsts⟩
  case apmSetRate imm =>
    obtain ⟨hpos, hle⟩ := (within_iff ..).mp hlegal
    have hrate : (BitVec.ofNat 4 (immNat imm)).toNat = imm.toNat := Nat.mod_eq_of_lt (by unfold immNat; omega)
    exact ⟨hmixer, hctx, hrate ▸ hpos, hlanes, hinsts⟩
  case mxSetLr | mxSetScale => exact ⟨{ hmixer with }, hctx, hrate, hlanes, hinsts⟩
  all_goals exact ⟨hmixer, hctx, hrate, hlanes, hinsts⟩

end

/-- Settles O55: every push has room, every operand is in range, and no update changes the length of a register file. -/
theorem stepKeepsControlRegistersLegal : Obligations.StepKeepsControlRegistersLegal := by
  intro s t hshape hcontrol hstep
  rw [← registersLegal_iff]
  have hs := (registersLegal_iff s).mpr ⟨hshape, hcontrol⟩
  refine step_keeps hs hstep (fun _ _ _ => ?_) fun i hw hchecks => effectOf_registers (consume_registers hs _) i hw hchecks
  exact ⟨hs.mixer, hs.apmCtx, hs.apmRate, hs.lanes, hs.insts⟩

end Sys2Proof.Machine
end

section
/-! No entry of MXIN at or above MX_N is read, by a prediction or by training (10_state.md R57). -/

namespace Sys2Proof.Machine

/-- The mixer with other entries of MXIN. -/
def withInputs (l : List Half) (m : Mixer) : Mixer := { m with inputs := l }

/-- The entries `l` agree with those of MXIN below MX_N. -/
def AgreesBelowN (l : List Half) (m : Mixer) : Prop := ∀ k, k < m.n.toNat → inputAt (withInputs l m) k = inputAt m k

/-- A fold whose steps commute with `g` wherever `P` holds, and keep `P`, commutes with `g`. -/
theorem foldl_commutes {α β : Type} {P : α → Prop} {g : α → α} {f : α → β → α} {l : List β} {a : α} (ha : P a)
    (hkeep : ∀ a b, P a → P (f a b)) (hf : ∀ a, P a → ∀ b ∈ l, f (g a) b = g (f a b)) :
    l.foldl f (g a) = g (l.foldl f a) := by
  induction l generalizing a with
  | nil => rfl
  | cons b l ih =>
    rw [List.foldl_cons, List.foldl_cons, hf a ha b List.mem_cons_self]
    exact ih (hkeep a b ha) fun a ha c hc => hf a ha c (List.mem_cons_of_mem _ hc)

section
variable {l : List Half} {m : Mixer} (h : AgreesBelowN l m)
include h

/-! ### Prediction (R303 to R305) -/

theorem dot_withInputs (j : Nat) : dot (withInputs l m) j = dot m j :=
  sumTo_congr fun k hk => by rw [h k hk]; rfl

theorem layerOne_withInputs (j : Nat) : layerOne (withInputs l m) j = layerOne m j := by
  rw [layerOne, dot_withInputs h]; rfl

theorem mixOf_withInputs : mixOf (withInputs l m) = mixOf m := by
  have hlayer : layerOne (withInputs l m) = layerOne m := funext (layerOne_withInputs h)
  rw [mixOf, hlayer]; rfl

theorem predict_withInputs (a : Apm) : predict (withInputs l m) a = predict m a := by
  have hlayer : layerOne (withInputs l m) = layerOne m := funext (layerOne_withInputs h)
  rw [predict, hlayer, mixOf_withInputs h]; rfl

/-! ### Training (R306, R307) -/

theorem trainWeight_agrees (j : Nat) (err : Int) (k : Nat) : AgreesBelowN l (trainWeight j err m k) := h

theorem trainWeight_withInputs (j : Nat) (err : Int) {k : Nat} (hk : k < m.n.toNat) :
    trainWeight j err (withInputs l m) k = withInputs l (trainWeight j err m k) := by
  rw [trainWeight, h k hk]; rfl

theorem trainBank_agrees (pr : Prediction) (y : Bool) (j : Nat) : AgreesBelowN l (trainBank pr y m j) := by
  rw [trainBank_fields]; exact h

theorem trainBank_withInputs (pr : Prediction) (y : Bool) (j : Nat) :
    trainBank pr y (withInputs l m) j = withInputs l (trainBank pr y m j) :=
  foldl_commutes (P := fun t => AgreesBelowN l t ∧ t.n = m.n) ⟨h, rfl⟩
    (fun _ _ ⟨ht, hn⟩ => ⟨trainWeight_agrees ht _ _ _, hn⟩)
    fun _ ⟨ht, hn⟩ k hk => trainWeight_withInputs ht _ _ (by rw [hn]; exact List.mem_range.mp hk)

theorem trainFirst_withInputs (pr : Prediction) (y : Bool) :
    trainFirst pr y (withInputs l m) = withInputs l (trainFirst pr y m) :=
  foldl_commutes (P := AgreesBelowN l) h (fun _ j ht => trainBank_agrees ht pr y j)
    fun _ ht j _ => trainBank_withInputs ht pr y j

theorem trainMixer_withInputs (pr : Prediction) (y : Bool) :
    trainMixer pr y (withInputs l m) = withInputs l (trainMixer pr y m) := by
  have hsecond (t : Mixer) : trainSecond pr y (withInputs l t) = withInputs l (trainSecond pr y t) := by
    simp only [trainSecond, apply_ite (withInputs l)]; rfl
  rw [trainMixer, trainFirst_withInputs h, hsecond]; rfl

end

/-- Settles O45: the sum of a bank and the update of its weights run over the entries below MX_N. -/
theorem entriesBeyondTheInputsAreNotRead : Obligations.EntriesBeyondTheInputsAreNotRead := fun m a y _ h =>
  ⟨predict_withInputs h a, trainMixer_withInputs h (predict m a) y⟩

end Sys2Proof.Machine
end

section
/-! The ports of 20_memory.md R102 to R106: the host's side of each, and the commands that write a result word. -/

namespace Sys2Proof.Machine

/-! ### The host's side -/

theorem hostPushByte_of_eos {s : State} (h : s.ports.eos = true) (b : Byte) : hostPushByte b s = s := by
  simp [hostPushByte, h]

theorem hostPushByte_of_not_eos {s : State} (h : s.ports.eos = false) (b : Byte) :
    hostPushByte b s = { s with ports := { s.ports with archIn := s.ports.archIn ++ [b] } } := by
  simp [hostPushByte, h]

theorem hostTakeResult_of_cons {s : State} {w : Word} {l : List Word} (h : s.ports.result = w :: l) :
    hostTakeResult s = (some w, { s with ports := { s.ports with result := l } }) := by
  simp [hostTakeResult, h]

theorem hostTakeResult_of_nil {s : State} (h : s.ports.result = []) : hostTakeResult s = (none, s) := by
  simp [hostTakeResult, h]

theorem hostTakeByte_of_cons {s : State} {b : Byte} {l : List Byte} (h : s.ports.archOut = b :: l) :
    hostTakeByte s = (some b, { s with ports := { s.ports with archOut := l } }) := by
  simp [hostTakeByte, h]

theorem hostTakeByte_of_nil {s : State} (h : s.ports.archOut = []) : hostTakeByte s = (none, s) := by
  simp [hostTakeByte, h]

/-- Settles O12: each port by the branch its host operation takes; the writes and the side band have one branch only. -/
theorem hostPortsKeepOrder : Obligations.HostPortsKeepOrder := fun _ _ b =>
  ⟨rfl, fun h => hostPushByte_of_eos h b, fun h => hostPushByte_of_not_eos h b, rfl,
    fun _ h => hostTakeResult_of_cons h, hostTakeResult_of_nil, fun _ h => hostTakeByte_of_cons h, hostTakeByte_of_nil,
    rfl⟩

/-! ### The result port (R103) -/

@[simp] theorem afterCode_ports (pr : Prediction) (y : Bool) (s : State) : (afterCode pr y s).ports = s.ports := by
  rw [afterCode, advance_fields]; rfl

@[simp] theorem stepEnc_result (y : Bool) (s : State) : (stepEnc y s).ports.result = s.ports.result := by
  simp [stepEnc, codeEnc, outBytes_eq]

@[simp] theorem stepDec_result (s : State) : (stepDec s).ports.result = s.ports.result := by
  rw [stepDec, afterCode_ports, codeDec, shiftInBytes_eq]; rfl

/-- The commands of R103 that write a result word. -/
def AppendsResult (i : Instr) : Prop := i = .decBit ∨ i = .peekP ∨ (∃ imm, i = .readReg imm) ∨ ∃ code, i = .bhQuery code

theorem effectOf_result (i : Instr) (s : State) :
    (effectOf i s).ports.result = s.ports.result ∨
    AppendsResult i ∧ ∃ w, (effectOf i s).ports.result = s.ports.result ++ [w] := by
  cases i
  case decBit => exact .inr ⟨.inl rfl, _, congrArg (· ++ _) (stepDec_result s)⟩
  case peekP => exact .inr ⟨.inr (.inl rfl), _, rfl⟩
  case readReg imm => exact .inr ⟨.inr (.inr (.inl ⟨imm, rfl⟩)), _, rfl⟩
  case bhQuery code => exact .inr ⟨.inr (.inr (.inr ⟨code, rfl⟩)), _, rfl⟩
  case encBit imm => exact .inl (stepEnc_result _ s)
  case startDec => left; rw [effectOf, startDecEffect, shiftInBytes_eq]; rfl
  case flush => left; rw [effectOf, flushEffect, outBytes_eq]
  all_goals exact .inl rfl

/-- Settles O13: waiting and a fault leave the port alone, and only four effects call Result, once each. -/
theorem resultPortGrowsByQueriesAlone : Obligations.ResultPortGrowsByQueriesAlone := by
  intro i s t h
  obtain rfl | ⟨code, rfl⟩ | rfl := exec_cases h
  · exact .inl rfl
  · exact .inl rfl
  · exact effectOf_result i (consume i.words s)

end Sys2Proof.Machine
end

section
/-! No command writes the configuration record (00_scope.md R4). -/

namespace Sys2Proof.Machine

@[simp] theorem effectOf_cfg (i : Instr) (s : State) : (effectOf i s).cfg = s.cfg := by
  cases i
  case startDec => rw [effectOf, startDecEffect_fields]; rfl
  case flush => rw [effectOf, flushEffect_fields]
  case encBit => rw [effectOf, stepEnc, afterCode_cfg, codeEnc_fields]
  case decBit => rw [effectOf, decBitEffect, result_cfg, stepDec, afterCode_cfg, codeDec_fields]
  all_goals rfl

theorem step_keeps_cfg {s t : State} (hstep : step s = .next t) : t.cfg = s.cfg :=
  step_keeps (P := fun t => t.cfg = s.cfg) rfl hstep (fun _ _ _ => rfl) fun i _ _ => effectOf_cfg i _

end Sys2Proof.Machine
end

section
/-! Every step keeps the context map sound: the checksums of a bucket distinct (43_contextmap.md R257), its MRU pair (R256)
and the lane handles (20_memory.md R101) inside the table. -/

namespace Sys2Proof.Machine

/-- The legal values of CM_LOG2B and CM_SLOTS (00_scope.md R5). -/
theorem contextMap_bounds {c : Cfg} (h : c.wf = true) : c.cmLog2b ≤ 28 ∧ 3 ≤ c.cmSlots ∧ c.cmSlots ≤ 15 := by
  simp only [Cfg.wf, Cfg.scalarsOk, Bool.and_eq_true, within_iff] at h
  omega

/-! ### The invariant of a context map -/

/-- Both handles of a lane name slots of the table. -/
def LaneLegal (c : Cfg) (t : Lane) : Prop := HandleLegal c t.h0 ∧ HandleLegal c t.cur

/-- An MRU pair names two different slots below `n`, or none (R256). -/
def MruLegal (n : Nat) (u : Mru) : Prop :=
  (u.mru0 = 15 ∨ u.mru0.toNat < n) ∧ (u.mru1 = 15 ∨ u.mru1.toNat < n) ∧ (u.mru0 = u.mru1 → u.mru0 = 15)

/-- `ContextInv` of a context map by itself. -/
structure CmSound (c : Cfg) (m : ContextMap) : Prop where
  lanes : ∀ l, l < c.cmLanes → LaneLegal c (laneAt m l)
  checksums : ∀ b i j, i < c.cmSlots → j < c.cmSlots → i ≠ j → (slotAt m b i).chk = (slotAt m b j).chk →
    (slotAt m b i).chk = 0
  recent : ∀ b, MruLegal c.cmSlots (mruAt m b)

theorem contextInv_iff (s : State) : ContextInv s ↔ CmSound s.cfg s.cm :=
  ⟨fun ⟨hhandles, hchecksums, hrecent⟩ => ⟨hhandles, hchecksums, hrecent⟩,
    fun ⟨hlanes, hchecksums, hrecent⟩ => ⟨hlanes, hchecksums, hrecent⟩⟩

theorem freshLane_legal {c : Cfg} (hw : c.wf = true) : LaneLegal c freshLane := by
  have hzero : HandleLegal c ⟨0, 0⟩ := ⟨Nat.two_pow_pos _, Nat.zero_lt_of_lt (contextMap_bounds hw).2.1⟩
  exact ⟨hzero, hzero⟩

theorem freshCm_sound {c : Cfg} (hw : c.wf = true) (m : ContextMap) : CmSound c (freshCm c m) where
  lanes l hl := by
    have hlane : laneAt (freshCm c m) l = freshLane := by simp [laneAt, freshCm, List.getD_eq_getElem?_getD, hl]
    exact hlane ▸ freshLane_legal hw
  checksums _ _ _ _ _ _ _ := rfl
  recent _ := ⟨.inl rfl, .inl rfl, fun _ => rfl⟩

/-! ### Where FIND ends (R255, R256) -/

theorem victim_lt {n : Nat} (hn : 0 < n) (b : Nat) (m : ContextMap) : victim n b m < n := by
  refine foldl_keeps (fun best => best.getD 0 < n) (lesser m b) _ none hn fun best s hs hbest => ?_
  have hs : s < n := List.mem_range.mp (List.mem_filter.mp hs).1
  unfold lesser
  split
  · split
    · exact hs
    · exact hbest
  · exact hs

/-- FIND returns a slot of the bucket; it claims it only when no slot of the bucket holds the checksum. -/
theorem find_cases {n : Nat} (hn : 0 < n) (b : Nat) (chk : Half) (m : ContextMap) :
    (find n b chk m).1 < n ∧
    ((find n b chk m).2 = touch b (find n b chk m).1 m ∨
      (∀ s, s < n → (slotAt m b s).chk ≠ chk) ∧
      (find n b chk m).2 = touch b (find n b chk m).1 (claim b (find n b chk m).1 chk m)) := by
  unfold find
  split
  · next s hs => exact ⟨List.mem_range.mp (List.mem_of_find?_eq_some hs), .inl rfl⟩
  · next habsent =>
    have habsent : ∀ s, s < n → (slotAt m b s).chk ≠ chk := by simpa using habsent
    split
    · next s hs => exact ⟨List.mem_range.mp (List.mem_of_find?_eq_some hs), .inr ⟨habsent, rfl⟩⟩
    · exact ⟨victim_lt hn b m, .inr ⟨habsent, rfl⟩⟩

/-- R254: the bucket of a hash is inside the table. -/
theorem hash_bucket_lt {log2b : Nat} (h : log2b ≤ 28) (fp : Long) (l : Nat) (c0 : BitVec 9) :
    (hash log2b fp l c0).1.toNat < 2 ^ log2b := by
  have hkey := (hashOne (hashKey fp l c0)).isLt
  have hpow : 2 ^ (64 - log2b) * 2 ^ log2b = 2 ^ 64 := by rw [← pow_add]; congr 1; omega
  simp only [hash, BitVec.toNat_setWidth, BitVec.toNat_ushiftRight, Nat.shiftRight_eq_div_pow]
  refine (Nat.mod_le _ _).trans_lt ((Nat.div_lt_iff_lt_mul (Nat.two_pow_pos _)).mpr ?_)
  rwa [mul_comm, hpow]

theorem lookup_handle_legal {c : Cfg} (hw : c.wf = true) (c0 : BitVec 9) (l : Nat) (m : ContextMap) :
    HandleLegal c (lookup c c0 l m).1 := by
  obtain ⟨hlog, hthree, hfifteen⟩ := contextMap_bounds hw
  have hslot := (find_cases (by omega : 0 < c.cmSlots) (hash c.cmLog2b (laneAt m l).fp l c0).1.toNat
    (hash c.cmLog2b (laneAt m l).fp l c0).2 m).1
  refine ⟨hash_bucket_lt hlog _ _ _, ?_⟩
  rw [lookup, BitVec.toNat_ofNat]
  exact (Nat.mod_le _ _).trans_lt hslot

/-! ### The writes -/

theorem runUpdate_chk (byte : Byte) (t : Slot) : (runUpdate byte t).chk = t.chk := by
  unfold runUpdate
  repeat' split
  all_goals rfl

section
variable {c : Cfg} {m : ContextMap} (h : CmSound c m)
include h

theorem setLane_sound {l : Nat} {v : Lane} (hv : l < c.cmLanes → LaneLegal c v) : CmSound c (setLane m l v) := by
  refine { h with lanes := fun k hk => ?_ }
  by_cases hkl : k = l
  · subst hkl
    by_cases hlength : k < m.lanes.length
    · rw [laneAt_setLane_same m k v hlength]; exact hv hk
    · rw [setLane, List.set_eq_of_length_le (by omega)]; exact h.lanes k hk
  · rw [laneAt_setLane_other m v hkl]; exact h.lanes k hk

theorem setSm1_sound (l k : Nat) (v : Half) : CmSound c (setSm1 m l k v) := ⟨h.lanes, h.checksums, h.recent⟩

theorem setSm2_sound (l k : Nat) (v : Half) : CmSound c (setSm2 m l k v) := ⟨h.lanes, h.checksums, h.recent⟩

/-- A slot written with the checksum it held. -/
theorem setSlot_sound {b k : Nat} {v : Slot} (hv : v.chk = (slotAt m b k).chk) : CmSound c (setSlot m b k v) := by
  have hchk (b' k' : Nat) : (slotAt (setSlot m b k v) b' k').chk = (slotAt m b' k').chk := by
    by_cases hkey : slotKey b' k' = slotKey b k
    · have hsame : slotAt (setSlot m b k v) b' k' = v := by rw [slotAt, hkey]; exact slotAt_setSlot_same m b k v
      rw [hsame, hv, slotAt, slotAt, hkey]
    · rw [slotAt_setSlot_other m v hkey]
  refine { h with checksums := fun b' i j => ?_ }
  rw [hchk, hchk]
  exact h.checksums b' i j

/-- R257.1: a claimed slot takes a checksum that no slot of the bucket held. -/
theorem claim_sound {b k : Nat} {chk : Half} (hslots : c.cmSlots ≤ 15) (hk : k < c.cmSlots)
    (habsent : ∀ s, s < c.cmSlots → (slotAt m b s).chk ≠ chk) : CmSound c (claim b k chk m) := by
  refine { h with checksums := fun b' i j hi hj hij => ?_ }
  have hread (s : Nat) (hs : s < c.cmSlots) :
      (slotAt (claim b k chk m) b' s).chk = if b' = b ∧ s = k then chk else (slotAt m b' s).chk := by
    split
    · next e => rw [e.1, e.2, claim, slotAt_setSlot_same]
    · next e =>
      rw [claim, slotAt_setSlot_other m _ (by rwa [Ne, slotKey_inj (by omega) (by omega)])]
  rw [hread i hi, hread j hj]
  split
  · next hclaimed =>
    obtain ⟨rfl, rfl⟩ := hclaimed
    rw [if_neg (by omega)]
    exact fun e => absurd e.symm (habsent j hj)
  · split
    · next hclaimed =>
      obtain ⟨rfl, rfl⟩ := hclaimed
      exact fun e => absurd e (habsent i hi)
    · exact h.checksums b' i j hi hj hij

theorem touch_sound {b k : Nat} (hslots : c.cmSlots ≤ 15) (hk : k < c.cmSlots) : CmSound c (touch b k m) := by
  unfold touch
  dsimp only
  split
  · exact h
  · next hmoved =>
    refine { h with recent := fun b' => ?_ }
    by_cases hb : b' = b
    · subst hb
      have htouched : (BitVec.ofNat 4 k).toNat = k := Nat.mod_eq_of_lt (by omega)
      rw [mruAt_setMru_same]
      exact ⟨.inr (htouched.symm ▸ hk), (h.recent b').1,
        fun e => absurd ((congrArg BitVec.toNat e).symm.trans htouched) hmoved⟩
    · rw [mruAt_setMru_other m _ hb]; exact h.recent b'

section
variable (hw : c.wf = true)
include hw

theorem find_sound (b : Nat) (chk : Half) : CmSound c (find c.cmSlots b chk m).2 := by
  obtain ⟨-, hthree, hslots⟩ := contextMap_bounds hw
  obtain ⟨hk, e | ⟨habsent, e⟩⟩ := find_cases (by omega : 0 < c.cmSlots) b chk m <;> rw [e]
  · exact touch_sound h hslots hk
  · exact touch_sound (claim_sound h hslots hk habsent) hslots hk

theorem resolveLane_sound (c0 : BitVec 9) (l : Nat) : CmSound c (resolveLane c c0 l m) := by
  refine setLane_sound (find_sound h hw _ _) fun hl => ⟨?_, lookup_handle_legal hw c0 l m⟩
  rw [laneAt_lookup]
  exact (h.lanes l hl).1

theorem cmSetLane_sound (c0 : BitVec 9) (l : Nat) (fp : Long) : CmSound c (cmSetLane c c0 l fp m) :=
  have hset : CmSound c (setLane m l { laneAt m l with fp := fp, valid := true }) := setLane_sound h (h.lanes l)
  setLane_sound (find_sound hset hw _ _) fun _ => ⟨lookup_handle_legal hw _ _ _, lookup_handle_legal hw _ _ _⟩

theorem cmResolve_sound (c0 : BitVec 9) : CmSound c (cmResolve c c0 m) :=
  forValidLanes_keeps (CmSound c) c _ m h fun _ _ _ _ ht => resolveLane_sound ht hw c0 _

end

/-! ### The updates of a coded bit (R262, R264) -/

theorem cmUpdate_sound (bpos : BitVec 3) (c0 : BitVec 9) (y : Bool) (l : Nat) : CmSound c (cmUpdate c bpos c0 y l m) := by
  unfold cmUpdate
  extract_lets handle index st ri m1 j m2
  have hfirst : CmSound c m1 := by
    unfold m1
    split
    · exact setSm1_sound h _ _ _
    · exact h
  have hsecond : CmSound c m2 := by
    unfold m2
    split
    · exact setSm2_sound hfirst _ _ _
    · exact hfirst
  exact setSlot_sound hsecond (setSlotByte_chk _ _ _)

theorem cmUpdateAll_sound (bpos : BitVec 3) (c0 : BitVec 9) (y : Bool) : CmSound c (cmUpdateAll c bpos c0 y m) :=
  forValidLanes_keeps (CmSound c) c _ m h fun _ _ _ _ ht => cmUpdate_sound ht bpos c0 y _

theorem cmBoundary_sound (byte : Byte) : CmSound c (cmBoundary c byte m) := by
  have hrun : CmSound c (forValidLanes c (cmRunUpdate byte) m) :=
    forValidLanes_keeps (CmSound c) c _ m h fun _ _ _ _ ht => setSlot_sound ht (runUpdate_chk _ _)
  refine { hrun with lanes := fun l hl => ?_ }
  have hlane := hrun.lanes l hl
  unfold cmBoundary
  simp only [laneAt, List.getD_eq_getElem?_getD, List.getElem?_map] at hlane ⊢
  generalize (forValidLanes c (cmRunUpdate byte) m).lanes[l]? = lane at hlane ⊢
  cases lane <;> exact hlane

end

/-! ### The step -/

theorem afterCode_context {s : State} (hw : s.cfg.wf = true) (h : CmSound s.cfg s.cm) (pr : Prediction) (y : Bool) :
    ContextInv (afterCode pr y s) := by
  rw [contextInv_iff, afterCode_cfg]
  exact afterCode_cm_keeps h (fun _ _ _ _ ht => cmUpdateAll_sound ht _ _ _) (fun _ _ ht => cmResolve_sound ht hw _)
    (fun _ _ ht => cmBoundary_sound ht _) pr y

theorem result_context {s : State} (h : ContextInv s) (w : Word) : ContextInv (result w s) :=
  ⟨h.handles, h.checksums, h.recent⟩

/-- START clears the context map, a coded bit and CM_SET keep it sound, and no other effect writes more than CM_SCALE. -/
theorem effectOf_context (i : Instr) {s : State} (hw : s.cfg.wf = true) (h : ContextInv s) : ContextInv (effectOf i s) := by
  have hm : CmSound s.cfg s.cm := (contextInv_iff s).mp h
  have ⟨hhandles, hchecksums, hrecent⟩ := h
  cases i
  case startEnc => exact (contextInv_iff _).mpr (freshCm_sound hw s.cm)
  case startDec =>
    rw [effectOf, startDecEffect_fields]
    exact (contextInv_iff _).mpr (freshCm_sound hw s.cm)
  case flush =>
    rw [effectOf, flushEffect_fields]
    exact ⟨hhandles, hchecksums, hrecent⟩
  case encBit imm =>
    refine afterCode_context ?_ ?_ _ _ <;> rw [codeEnc_fields]
    · exact hw
    · exact hm
  case decBit =>
    refine result_context (afterCode_context ?_ ?_ _ _) _ <;> rw [codeDec_fields]
    · exact hw
    · exact hm
  case cmSet => exact (contextInv_iff _).mpr (cmSetLane_sound hm hw _ _ _)
  all_goals exact ⟨hhandles, hchecksums, hrecent⟩

/-- A fault keeps the context map, and every effect keeps it sound. -/
theorem step_keeps_contextInv {s t : State} (hs : ContextInv s) (hstep : step s = .next t) : ContextInv t :=
  have ⟨hhandles, hchecksums, hrecent⟩ := hs
  step_keeps hs hstep (fun _ _ _ => ⟨hhandles, hchecksums, hrecent⟩) fun i hw _ =>
    effectOf_context i (s := consume i.words s) hw ⟨hhandles, hchecksums, hrecent⟩

end Sys2Proof.Machine
end

section
/-! Every step keeps the DMC forest sound (45_dmc.md R364). -/

namespace Sys2Proof.Machine

/-! ### What the construction check gives (00_scope.md R6) -/

theorem capOk_bounds {n : Nat} (h : capOk n = true) : 65536 ≤ n ∧ n ≤ 2 ^ 28 := by
  simp only [capOk, List.any_eq_true, List.mem_range, beq_iff_eq] at h
  obtain ⟨k, hk, rfl⟩ := h
  have hlow : 1 ≤ 2 ^ k := Nat.one_le_two_pow
  have hhigh : 2 ^ k ≤ 2 ^ 12 := Nat.pow_le_pow_right (by omega) (by omega)
  omega

/-- The legal parameters of predictor `i` of the forest (00_scope.md R5). -/
structure DmcBounds (c : Cfg) (i : Nat) : Prop where
  capLow : initialTop < c.cap i
  capHigh : c.cap i ≤ 2 ^ 28
  thrPos : 1 ≤ c.thrInit i
  thrLe : c.thrInit i ≤ c.thrCap i
  thrHigh : c.thrCap i < 2 ^ 31

theorem dmc_bounds {c : Cfg} (h : c.wf = true) {i : Nat} (hi : i < dmcN) : DmcBounds c i := by
  simp only [Cfg.wf, Cfg.dmcOk, Cfg.instanceOk, Bool.and_eq_true, List.all_eq_true, List.mem_range, within_iff] at h
  obtain ⟨⟨hcap, hinit⟩, hthr⟩ := h.1.2.2 i hi
  obtain ⟨hlow, hhigh⟩ := capOk_bounds hcap
  exact ⟨by unfold initialTop; omega, hhigh, hinit.1, hthr.1, by omega⟩

/-- 42_bithistory.md R232: a transition leads to a used code, from an unused code too. -/
theorem bhNext_lt {c : Cfg} (h : c.wf = true) (code : Byte) (y : Bool) :
    (bhNext c.bhTable code y).toNat < c.bhTable.length := by
  simp only [Cfg.wf, bhTableOk, bhSizeOk, bhNextOk, Bool.and_eq_true, List.all_eq_true, within_iff] at h
  obtain ⟨-, ⟨⟨⟨hsize, -⟩, -⟩, hnext⟩, -⟩ := h
  have hrow : bhRowOr0 c.bhTable code ∈ c.bhTable := by
    rw [bhRowOr0, List.getD_eq_getElem _ _ (by omega)]
    cases hrow : c.bhTable[code.toNat]? with
    | some r => exact List.mem_of_getElem? hrow
    | none => exact List.getElem_mem _
  obtain ⟨hnext0, hnext1⟩ := hnext _ hrow
  unfold bhNext
  cases y
  · exact hnext0.2.trans_lt (by omega)
  · exact hnext1.2.trans_lt (by omega)

/-! ### A sound node -/

/-- What R364 asks of node `n`, with `top` nodes in use. -/
structure NodeLegal (c : Cfg) (top n : Nat) (v : Node) : Prop where
  child : ∀ y, (nodeNext v y).toNat < top
  noSelfLoop : ∀ y, (nodeNext v y).toNat ≠ n
  counted : 1 ≤ nodeTotal v
  state : v.st.toNat < c.bhTable.length

theorem InstInv.node {c : Cfg} {i : Nat} {d : DmcInst} (h : InstInv c i d) {n : Nat} (hn : n < d.top.toNat) :
    NodeLegal c d.top.toNat n (nodeAt d n) :=
  ⟨h.children n hn, h.noSelfLoop n hn, h.counted n hn, h.states n hn⟩

theorem InstInv.of_nodes {c : Cfg} {i : Nat} {d : DmcInst} (htopLow : initialTop ≤ d.top.toNat)
    (htopHigh : d.top.toNat ≤ c.cap i) (hcurr : d.curr.toNat < d.top.toNat) (hthrLow : c.thrInit i ≤ d.thr.toNat)
    (hthrHigh : d.thr.toNat ≤ c.thrCap i)
    (hnode : ∀ n, n < d.top.toNat → NodeLegal c d.top.toNat n (nodeAt d n)) : InstInv c i d where
  topLow := htopLow
  topHigh := htopHigh
  curr := hcurr
  children n hn := (hnode n hn).child
  noSelfLoop n hn := (hnode n hn).noSelfLoop
  counted n hn := (hnode n hn).counted
  states n hn := (hnode n hn).state
  thrLow := hthrLow
  thrHigh := hthrHigh

theorem NodeLegal.mono {c : Cfg} {top top' n : Nat} {v : Node} (h : NodeLegal c top n v) (htop : top ≤ top') :
    NodeLegal c top' n v :=
  { h with child := fun y => (h.child y).trans_le htop }

/-- A node of the initial graph, by its two children. -/
theorem freshNode_legal {c : Cfg} (hw : c.wf = true) {n a b : Nat} (ha : a < initialTop ∧ a ≠ n)
    (hb : b < initialTop ∧ b ≠ n) :
    NodeLegal c initialTop n { c0 := 1024, c1 := 1024, st := 0, nx0 := BitVec.ofNat 28 a, nx1 := BitVec.ofNat 28 b } := by
  have hindex {x : Nat} (hx : x < initialTop) : (BitVec.ofNat 28 x).toNat = x :=
    Nat.mod_eq_of_lt (hx.trans (by decide))
  refine ⟨fun y => ?_, fun y => ?_, show 1 ≤ 2048 by omega, Nat.zero_lt_of_lt (bhNext_lt hw 0 false)⟩ <;> cases y
  · exact (hindex ha.1).trans_lt ha.1
  · exact (hindex hb.1).trans_lt hb.1
  · exact (hindex ha.1).trans_ne ha.2
  · exact (hindex hb.1).trans_ne hb.2

/-- The initial graph (R352): a node's children stand below it in its own tree, or are the roots of two trees. -/
theorem nodeInit_legal {c : Cfg} (hw : c.wf = true) {n : Nat} (hn : n < initialTop) :
    NodeLegal c initialTop n (nodeInit n) := by
  have hoffset : n % 255 < 255 := Nat.mod_lt _ (by omega)
  rw [nodeInit, if_pos hn]
  dsimp only
  unfold initialTop at hn
  split
  all_goals apply freshNode_legal hw <;> unfold initialTop <;> omega

/-! ### Writes of one predictor -/

theorem nodeAt_setNode (d : DmcInst) (n : Nat) (v : Node) (x : Nat) :
    nodeAt (setNode d n v) x = if x = n then v else nodeAt d x := tableGet_set _ _ _ _ _

section
variable {c : Cfg} {i : Nat} {d : DmcInst} (h : InstInv c i d)
include h

theorem setNode_instInv {n : Nat} {v : Node} (hv : NodeLegal c d.top.toNat n v) : InstInv c i (setNode d n v) := by
  refine .of_nodes h.topLow h.topHigh h.curr h.thrLow h.thrHigh fun x hx => ?_
  rw [nodeAt_setNode]
  split
  · next e => exact e ▸ hv
  · exact h.node hx

theorem dmcDecay_instInv {k : Nat} (hk : k < d.top.toNat) (y : Bool) : InstInv c i (dmcDecay k y d) := by
  have hnode := h.node hk
  refine setNode_instInv h ⟨hnode.child, hnode.noSelfLoop, ?_, hnode.state⟩
  cases y <;> simp [nodeTotal, decay] <;> omega

theorem dmcStateUpdate_instInv (hw : c.wf = true) {k : Nat} (hk : k < d.top.toNat) (y : Bool) :
    InstInv c i (dmcStateUpdate c k y d) := by
  have hnode := h.node hk
  have hsmd (st : Byte) (v : Half) : InstInv c i (setSmd d st v) := { h with }
  exact setNode_instInv (hsmd _ _) { hnode with state := bhNext_lt hw _ y }

end

/-! ### CLONE (R358) -/

/-- The share `n / total` of a count. -/
def share (count : Half) (n total : Nat) : Half := BitVec.ofNat 16 (count.toNat * n / total)

/-- Node `v` with its child after `y` at `x`. -/
def withChild (v : Node) (y : Bool) (x : BitVec 28) : Node := if y then { v with nx1 := x } else { v with nx0 := x }

@[simp] theorem nodeNext_withChild (v : Node) (y : Bool) (x : BitVec 28) (z : Bool) :
    nodeNext (withChild v y x) z = if z = y then x else nodeNext v z := by
  cases y <;> cases z <;> rfl

@[simp] theorem withChild_st (v : Node) (y : Bool) (x : BitVec 28) : (withChild v y x).st = v.st := by cases y <;> rfl

@[simp] theorem nodeTotal_withChild (v : Node) (y : Bool) (x : BitVec 28) : nodeTotal (withChild v y x) = nodeTotal v := by
  cases y <;> rfl

section
variable (thrCap : Nat) (y : Bool) (n total : Nat) (d : DmcInst)

theorem dmcClone_top (k t : Nat) : (dmcClone thrCap k t y n total d).top = d.top + 1 := rfl

theorem dmcClone_curr (k t : Nat) : (dmcClone thrCap k t y n total d).curr = d.curr := rfl

theorem dmcClone_thr (k t : Nat) :
    (dmcClone thrCap k t y n total d).thr = BitVec.ofNat 32 (min (d.thr.toNat + 1) thrCap) := rfl

/-- CLONE writes three nodes: `k`, whose edge leads to the new node; the new node, with a share of the counts of `t`; and
`t`, with the rest of them. -/
theorem nodeAt_dmcClone {k t : Nat} (hk : k ≠ d.top.toNat) (ht : t ≠ d.top.toNat) (hkt : k ≠ t) (x : Nat) :
    nodeAt (dmcClone thrCap k t y n total d) x =
      if x = k then withChild (nodeAt d k) y (BitVec.ofNat 28 d.top.toNat)
      else if x = d.top.toNat then
        { nodeAt d t with c0 := share (nodeAt d t).c0 n total, c1 := share (nodeAt d t).c1 n total }
      else if x = t then
        { nodeAt d t with
          c0 := (nodeAt d t).c0 - share (nodeAt d t).c0 n total, c1 := (nodeAt d t).c1 - share (nodeAt d t).c1 n total }
      else nodeAt d x := by
  have hraised (z : Nat) : nodeAt { d with top := d.top + 1 } z = nodeAt d z := rfl
  have hthr (e : DmcInst) (v : Word) (z : Nat) : nodeAt { e with thr := v } z = nodeAt e z := rfl
  simp only [dmcClone, hthr, nodeAt_setNode, hraised, hk, ht, ht.symm, hkt, if_true, if_false, withChild, share]
  by_cases hx : x = d.top.toNat <;> simp only [hx, if_true, if_false]

end

theorem dmcGrow_curr (c : Cfg) (i k : Nat) (y : Bool) (n : Nat) (d : DmcInst) : (dmcGrow c i k y n d).curr = d.curr := by
  unfold dmcGrow
  extract_lets t total
  split
  · split
    · exact dmcClone_curr ..
    · rfl
  · rfl

/-- The two shares of a sum add up to `n`, or to one less by rounding. -/
theorem share_sum_bounds {a b : Half} {n total : Nat} (hsum : a.toNat + b.toNat = total) (hn : n < total) :
    (share a n total).toNat ≤ a.toNat ∧ (share b n total).toNat ≤ b.toNat ∧
    n ≤ (share a n total).toNat + (share b n total).toNat + 1 ∧
    (share a n total).toNat + (share b n total).toNat ≤ n := by
  have hle (count : Half) : count.toNat * n / total ≤ count.toNat :=
    Nat.div_le_of_le_mul (by rw [mul_comm]; exact Nat.mul_le_mul_right _ hn.le)
  have hshare (count : Half) : (share count n total).toNat = count.toNat * n / total :=
    Nat.mod_eq_of_lt ((hle count).trans_lt count.isLt)
  have hadd := Nat.add_div (a := a.toNat * n) (b := b.toNat * n) (Nat.zero_lt_of_lt hn)
  rw [← add_mul, hsum, Nat.mul_div_cancel_left n (Nat.zero_lt_of_lt hn)] at hadd
  rw [hshare, hshare]
  refine ⟨hle a, hle b, ?_⟩
  split at hadd <;> omega

/-- A node keeps what R364 asks when an edge of it is led to another node below the new top. -/
theorem NodeLegal.withChild {c : Cfg} {top n : Nat} {v : Node} (h : NodeLegal c top n v) (y : Bool) {x : BitVec 28}
    (hx : x.toNat < top) (hn : x.toNat ≠ n) : NodeLegal c top n (withChild v y x) where
  child z := by
    rw [nodeNext_withChild]
    split
    · exact hx
    · exact h.child z
  noSelfLoop z := by
    rw [nodeNext_withChild]
    split
    · exact hn
    · exact h.noSelfLoop z
  counted := by rw [nodeTotal_withChild]; exact h.counted
  state := by rw [withChild_st]; exact h.state

section
variable {c : Cfg} {i : Nat} {d : DmcInst} (h : InstInv c i d)
include h

/-- R364 holds of the three nodes that CLONE writes, when the edge `y` of node `k` leads to `t`: both shares of the counts of
`t` are at least 1, for `2 ≤ n < total`. -/
theorem dmcClone_nodes {thrCap k t n total : Nat} {y : Bool} (hk : k < d.top.toNat) (hroom : d.top.toNat < 2 ^ 28)
    (hnext : (nodeNext (nodeAt d k) y).toNat = t) (htotal : nodeTotal (nodeAt d t) = total) (hcount : 2 ≤ n)
    (hvolume : n < total) {x : Nat} (hx : x < d.top.toNat + 1) :
    NodeLegal c (d.top.toNat + 1) x (nodeAt (dmcClone thrCap k t y n total d) x) := by
  have ht : t < d.top.toNat := hnext ▸ h.children k hk y
  have hkt : k ≠ t := fun e => h.noSelfLoop k hk y (hnext.trans e.symm)
  have hlink : (BitVec.ofNat 28 d.top.toNat).toNat = d.top.toNat := Nat.mod_eq_of_lt hroom
  have hsource := (h.node ht).mono (Nat.le_succ _)
  obtain ⟨hshare0, hshare1, hlow, hhigh⟩ := share_sum_bounds htotal hvolume
  rw [nodeAt_dmcClone _ _ _ _ _ hk.ne ht.ne hkt]
  split
  · next e =>
    subst e
    exact ((h.node hk).mono (Nat.le_succ _)).withChild y (by omega) (by omega)
  · split
    · next e =>
      subst e
      have hcounted : 1 ≤ (share (nodeAt d t).c0 n total).toNat + (share (nodeAt d t).c1 n total).toNat := by omega
      exact ⟨hsource.child, fun z => (h.children t ht z).ne, hcounted, hsource.state⟩
    · split
      · next e =>
        subst e
        have hcounted : 1 ≤ ((nodeAt d x).c0 - share (nodeAt d x).c0 n total).toNat +
            ((nodeAt d x).c1 - share (nodeAt d x).c1 n total).toNat := by
          rw [BitVec.toNat_sub_of_le hshare0, BitVec.toNat_sub_of_le hshare1]
          unfold nodeTotal at htotal
          omega
        exact { hsource with counted := hcounted }
      · exact (h.node (by omega)).mono (Nat.le_succ _)

/-- A clone of a ripe edge (R356) with room for it (R361). -/
theorem dmcClone_instInv (hb : DmcBounds c i) {k t n total : Nat} {y : Bool} (hk : k < d.top.toNat)
    (hnext : (nodeNext (nodeAt d k) y).toNat = t) (htotal : nodeTotal (nodeAt d t) = total) (hcount : d.thr.toNat < n)
    (hvolume : n + d.thr.toNat < total) (hroom : d.top.toNat < c.cap i) :
    InstInv c i (dmcClone (c.thrCap i) k t y n total d) := by
  obtain ⟨-, hcapHigh, hthrPos, hthrLe, hthrHigh⟩ := hb
  have ⟨htopLow, _, hcurr, _, _, _, _, hthrLow, _⟩ := h
  have htop : (d.top + 1).toNat = d.top.toNat + 1 := BitVec.toNat_add_of_lt (by simp; omega)
  have hthr : (BitVec.ofNat 32 (min (d.thr.toNat + 1) (c.thrCap i))).toNat = min (d.thr.toNat + 1) (c.thrCap i) :=
    Nat.mod_eq_of_lt (by omega)
  apply InstInv.of_nodes <;> simp only [dmcClone_top, dmcClone_curr, dmcClone_thr, htop, hthr]
  case hnode => exact fun x hx => dmcClone_nodes h hk (by omega) hnext htotal (by omega) (by omega) hx
  all_goals omega

theorem dmcGrow_instInv (hb : DmcBounds c i) {k : Nat} (hk : k < d.top.toNat) (y : Bool) (n : Nat) :
    InstInv c i (dmcGrow c i k y n d) := by
  unfold dmcGrow
  extract_lets t total
  split
  · next hripe =>
    split
    · next hroom => exact dmcClone_instInv h hb hk rfl rfl hripe.1 hripe.2 hroom
    · exact { h with }
  · exact h

/-- CURR follows an edge (R356). -/
theorem follow_instInv (y : Bool) : InstInv c i { d with curr := nodeNext (nodeAt d d.curr.toNat) y } :=
  { h with curr := h.children _ h.curr y }

theorem dmcUpdate_instInv (hw : c.wf = true) (hb : DmcBounds c i) (y : Bool) : InstInv c i (dmcUpdate c y i d) := by
  unfold dmcUpdate
  extract_lets k n grown
  have hcurr : grown.curr.toNat = k := congrArg BitVec.toNat (dmcGrow_curr ..)
  have hgrown : InstInv c i grown :=
    dmcGrow_instInv (dmcStateUpdate_instInv (dmcDecay_instInv h h.curr y) hw h.curr y) hb h.curr y n
  have hfollow := follow_instInv hgrown y
  rwa [hcurr] at hfollow

end

/-- The initial graph and its registers (R352). -/
theorem dmcInit_instInv {c : Cfg} (hw : c.wf = true) {i : Nat} (hb : DmcBounds c i) {d : DmcInst}
    (hcurr : d.curr.toNat < initialTop) : InstInv c i (dmcInit c i d) := by
  obtain ⟨hcapLow, -, -, hthrLe, hthrHigh⟩ := hb
  have hthr : (dmcInit c i d).thr.toNat = c.thrInit i := Nat.mod_eq_of_lt (by omega)
  exact .of_nodes le_rfl hcapLow.le hcurr hthr.ge (hthr.trans_le hthrLe) fun _ hn => nodeInit_legal hw hn

theorem dmcByteReset_instInv {c : Cfg} (hw : c.wf = true) {i : Nat} (hb : DmcBounds c i) {d : DmcInst}
    (h : InstInv c i d) (byte : Byte) : InstInv c i (dmcByteReset c byte i d) := by
  unfold dmcByteReset
  split
  · have hroot : (BitVec.ofNat 28 (byte.toNat * 255)).toNat < initialTop := by
      have hbyte := byte.isLt
      rw [BitVec.toNat_ofNat]
      exact (Nat.mod_le _ _).trans_lt (by unfold initialTop; omega)
    exact dmcInit_instInv hw hb (d := { d with curr := BitVec.ofNat 28 (byte.toNat * 255) }) hroot
  · exact h

/-! ### The forest -/

/-- `ForestInv` of a forest by itself. -/
def ForestSound (c : Cfg) (f : Forest) : Prop := f.insts.length = dmcN ∧ ∀ i, i < dmcN → InstInv c i (instAt f i)

section
variable {c : Cfg} (hw : c.wf = true)
include hw

theorem freshForest_sound (f : Forest) : ForestSound c (freshForest c f) := by
  refine ⟨by simp [freshForest], fun i hi => ?_⟩
  have hinst : instAt (freshForest c f) i = freshInst c i := by
    simp [instAt, freshForest, List.getD_eq_getElem?_getD, hi]
  exact hinst ▸ dmcInit_instInv hw (dmc_bounds hw hi) (by decide)

theorem dmcUpdateAll_sound {f : Forest} (h : ForestSound c f) (y : Bool) : ForestSound c (dmcUpdateAll c y f) := by
  obtain ⟨hlength, hinsts⟩ := h
  refine ⟨(dmcUpdateAll_length _ _ _).trans hlength, fun i hi => ?_⟩
  rw [instAt_dmcUpdateAll c y f i (hlength ▸ hi)]
  exact dmcUpdate_instInv (hinsts i hi) hw (dmc_bounds hw hi) y

theorem dmcBoundary_sound {f : Forest} (h : ForestSound c f) (byte : Byte) : ForestSound c (dmcBoundary c byte f) := by
  obtain ⟨hlength, hinsts⟩ := h
  refine ⟨(dmcBoundary_length _ _ _).trans hlength, fun i hi => ?_⟩
  rw [instAt_dmcBoundary c byte f i (hlength ▸ hi)]
  exact dmcByteReset_instInv hw (dmc_bounds hw hi) (hinsts i hi) byte

end

/-! ### The step -/

theorem afterCode_forest {s : State} (hw : s.cfg.wf = true) (h : ForestSound s.cfg s.dmc) (pr : Prediction) (y : Bool) :
    ForestInv (afterCode pr y s) := by
  unfold ForestInv
  rw [afterCode_cfg]
  exact afterCode_dmc_keeps (P := ForestSound s.cfg) h (fun y _ ht => dmcUpdateAll_sound hw ht y)
    (fun byte _ ht => dmcBoundary_sound hw ht byte) pr y

theorem result_forest {s : State} (h : ForestInv s) (w : Word) : ForestInv (result w s) := h

/-- START builds the initial graphs, a coded bit keeps the forest sound, and no other effect writes more than DMC_SCALE. -/
theorem effectOf_forest (i : Instr) {s : State} (hw : s.cfg.wf = true) (h : ForestInv s) : ForestInv (effectOf i s) := by
  cases i
  case startEnc => exact freshForest_sound hw s.dmc
  case startDec => rw [effectOf, startDecEffect_fields]; exact freshForest_sound hw s.dmc
  case flush => rw [effectOf, flushEffect_fields]; exact h
  case encBit imm =>
    refine afterCode_forest ?_ ?_ _ _ <;> rw [codeEnc_fields]
    · exact hw
    · exact h
  case decBit =>
    refine result_forest (afterCode_forest ?_ ?_ _ _) _ <;> rw [codeDec_fields]
    · exact hw
    · exact h
  all_goals exact h

/-- A fault keeps the forest, and every effect keeps it sound. -/
theorem step_keeps_forestInv {s t : State} (hs : ForestInv s) (hstep : step s = .next t) : ForestInv t :=
  step_keeps hs hstep (fun _ _ _ => hs) fun i hw _ => effectOf_forest i (s := consume i.words s) hw hs

end Sys2Proof.Machine
end

section
/-! Every state a core reaches from hardware reset meets every invariant. -/

namespace Sys2Proof.Machine

/-! ### Hardware reset (70_reset_and_hazards.md R440) -/

/-- There is a context to select, in the mixer and in the APM (00_scope.md R5). -/
theorem selector_bounds {c : Cfg} (h : c.wf = true) : 1 ≤ c.mxKsel ∧ 1 ≤ c.apmNctx := by
  simp only [Cfg.wf, Cfg.scalarsOk, Bool.and_eq_true, within_iff] at h
  omega

theorem resetMixer_legal {c : Cfg} (hw : c.wf = true) : MixerLegal c (resetMixer c) where
  selLength := List.length_replicate
  blendLength := List.length_replicate
  countLeN := le_rfl
  nLeMax := Nat.zero_le _
  activePos := le_rfl
  activeLe := (mxNsel_bounds hw).1
  selLegal j hj := by
    have hsel : selAt (resetMixer c) j = 0 := by simp [selAt, resetMixer, freshMixer, List.getD_eq_getElem?_getD, hj]
    exact hsel ▸ (selector_bounds hw).1
  written := le_rfl

theorem resetWith_registers {c : Cfg} (hw : c.wf = true) : RegistersLegal (State.resetWith c) where
  mixer := resetMixer_legal hw
  apmCtx := (selector_bounds hw).2
  apmRate := show 1 ≤ 7 by omega
  lanes := List.length_replicate
  insts := by simp [State.resetWith, resetForest, freshForest]

theorem resetWith_coreInv {c : Cfg} (hw : c.wf = true) : CoreInv (State.resetWith c) :=
  have ⟨hshape, hcontrol⟩ := (registersLegal_iff _).mp (resetWith_registers hw)
  { config := hw
    tables := memory_wf_resetWith c
    position := (positionInv_iff _).mpr ⟨partialByte_start, interval_full⟩
    shape := hshape
    control := hcontrol
    context := (contextInv_iff _).mpr (freshCm_sound hw _)
    forest := freshForest_sound hw _ }

/-! ### The core's steps and the host's actions -/

theorem step_keeps_coreInv {s t : State} (h : CoreInv s) (hstep : step s = .next t) : CoreInv t :=
  have ⟨hshape, hcontrol⟩ := stepKeepsControlRegistersLegal s t h.shape h.control hstep
  { config := (congrArg Cfg.wf (step_keeps_cfg hstep)).trans h.config
    tables := stepKeepsTablesCanonical s t h.tables hstep
    position := stepKeepsPositionAndInterval s t h.position hstep
    shape := hshape
    control := hcontrol
    context := step_keeps_contextInv h.context hstep
    forest := step_keeps_forestInv h.forest hstep }

/-- No invariant speaks of the ports. -/
theorem CoreInv.withPorts {s : State} (h : CoreInv s) (p : Ports) : CoreInv { s with ports := p } where
  config := h.config
  tables := h.tables
  position := ⟨h.position.c0Low, h.position.c0High, h.position.ordered, h.position.apart⟩
  shape := ⟨h.shape.sel, h.shape.blend, h.shape.lanes, h.shape.insts⟩
  control := { h.control with }
  context := ⟨h.context.handles, h.context.checksums, h.context.recent⟩
  forest := h.forest

/-- A host action resets the core or writes its ports alone (20_memory.md R102 to R107). -/
theorem hostDo_cases (a : HostAction) (s : State) :
    hostDo a s = State.resetWith s.cfg ∨ ∃ p, hostDo a s = { s with ports := p } := by
  cases a with
  | writeCommand w => exact .inr ⟨_, rfl⟩
  | pushByte b =>
    right
    cases heos : s.ports.eos with
    | true => exact ⟨s.ports, hostPushByte_of_eos heos b⟩
    | false => exact ⟨_, hostPushByte_of_not_eos heos b⟩
  | raiseEos => exact .inr ⟨_, rfl⟩
  | takeResult =>
    right
    cases hresult : s.ports.result with
    | nil => exact ⟨s.ports, congrArg Prod.snd (hostTakeResult_of_nil hresult)⟩
    | cons w l => exact ⟨_, congrArg Prod.snd (hostTakeResult_of_cons hresult)⟩
  | takeByte =>
    right
    cases hbytes : s.ports.archOut with
    | nil => exact ⟨s.ports, congrArg Prod.snd (hostTakeByte_of_nil hbytes)⟩
    | cons b l => exact ⟨_, congrArg Prod.snd (hostTakeByte_of_cons hbytes)⟩
  | reset => exact .inl rfl

/-- Settles O58, by induction on the run: hardware reset meets every invariant, and each step and host action keeps them. -/
theorem everyReachableStateIsSound : Obligations.EveryReachableStateIsSound := by
  intro c s hw hreach
  induction hreach with
  | reset => exact ⟨resetWith_coreInv hw, rfl⟩
  | step _ hstep ih => exact ⟨step_keeps_coreInv ih.1 hstep, (step_keeps_cfg hstep).trans ih.2⟩
  | @host s a _ ih =>
    obtain ⟨hinv, hcfg⟩ := ih
    obtain e | ⟨p, e⟩ := hostDo_cases a s <;> rw [e]
    · exact ⟨resetWith_coreInv hinv.config, hcfg⟩
    · exact ⟨hinv.withPorts p, hcfg⟩

end Sys2Proof.Machine
end

section
/-! The statements of 30_encoding.md on the decoder (R131 to R138): a word list reads as a command exactly when that
command's encoding stands at its head, and a header that is no command's faults. -/

namespace Sys2Proof.Machine

/-! ### A command and its header (R131 to R133, R135) -/

/-- The format of a command, from the table of R135. -/
def formatOf : Instr → Format
  | .nop | .startEnc | .startDec | .flush | .stop | .decBit | .peekP | .cmMix | .dmcMix => .f0
  | .encBit _ | .readReg _ | .cmSetScale _ | .mxAdd _ | .mxSetN _ | .mxSetActive _ | .mxSetLr _ | .mxSetScale _
  | .apmSetCtx _ | .apmSetRate _ | .apmEnable _ | .dmcSetScale _ => .fi
  | .mxSelect _ _ => .fs
  | .cmSet _ _ => .fl
  | .bhQuery _ => .fb

/-- The law of the encoded words, for every command. -/
theorem encodedWords : ∀ i : Instr, Laws.EncodedWords.Statement i
  | .nop => Laws.EncodedWords.nop
  | .startEnc => Laws.EncodedWords.startEnc
  | .startDec => Laws.EncodedWords.startDec
  | .flush => Laws.EncodedWords.flush
  | .stop => Laws.EncodedWords.stop
  | .encBit imm => Laws.EncodedWords.encBit imm
  | .decBit => Laws.EncodedWords.decBit
  | .peekP => Laws.EncodedWords.peekP
  | .readReg imm => Laws.EncodedWords.readReg imm
  | .bhQuery code => Laws.EncodedWords.bhQuery code
  | .cmSet lane fp => Laws.EncodedWords.cmSet lane fp
  | .cmMix => Laws.EncodedWords.cmMix
  | .cmSetScale imm => Laws.EncodedWords.cmSetScale imm
  | .mxAdd imm => Laws.EncodedWords.mxAdd imm
  | .mxSelect bank ctx => Laws.EncodedWords.mxSelect bank ctx
  | .mxSetN imm => Laws.EncodedWords.mxSetN imm
  | .mxSetActive imm => Laws.EncodedWords.mxSetActive imm
  | .mxSetLr imm => Laws.EncodedWords.mxSetLr imm
  | .mxSetScale imm => Laws.EncodedWords.mxSetScale imm
  | .apmSetCtx imm => Laws.EncodedWords.apmSetCtx imm
  | .apmSetRate imm => Laws.EncodedWords.apmSetRate imm
  | .apmEnable imm => Laws.EncodedWords.apmEnable imm
  | .dmcMix => Laws.EncodedWords.dmcMix
  | .dmcSetScale imm => Laws.EncodedWords.dmcSetScale imm

theorem opOf_header (i : Instr) : opOf i.header = i.opcode :=
  have ⟨hop, _⟩ := encodedWords i
  hop

theorem wordsOf_header (i : Instr) : wordsOf i.header = i.payload.length + 1 :=
  have ⟨_, _, _, hwords, _⟩ := encodedWords i
  hwords

theorem legal_opcode (i : Instr) : illegalOp i.opcode.toNat = false :=
  have ⟨_, _, hlegal, _⟩ := encodedWords i
  hlegal

theorem reservedMask_formatOf (i : Instr) : reservedMask (formatOf i) = reservedBitsOf i.opcode.toNat := by
  cases i <;> rfl

theorem header_and_reservedMask (i : Instr) : i.header &&& reservedMask (formatOf i) = 0 :=
  have ⟨_, hbits, _⟩ := encodedWords i
  reservedMask_formatOf i ▸ hbits

/-! ### The fields of a header -/

/-- What a format reads of header[23:0], its reserved fields read as zero (R133). -/
def fieldsRead (hdr : Word) : Format → BitVec 24
  | .f0 => 0
  | .fi => (immOf hdr).setWidth 24
  | .fs => bankOf hdr ++ immOf hdr
  | .fl | .fb => (lowByteOf hdr).setWidth 24

/-- A header is its opcode and its operand fields, side by side. -/
theorem opOf_append_fields (hdr : Word) : opOf hdr ++ hdr.extractLsb' 0 24 = hdr :=
  (BitVec.extractLsb'_append_extractLsb'_eq_extractLsb' (by decide)).trans BitVec.extractLsb'_eq_self

/-- The low field is the whole of header[23:0] when the mask covers what stands above it and finds nothing there. -/
theorem low_field_of_reserved {hdr mask : Word} {w : Nat} (hmask : ∀ k < 24, w ≤ k → mask.getLsbD k = true)
    (h : hdr &&& mask = 0) : (hdr.extractLsb' 0 w).setWidth 24 = hdr.extractLsb' 0 24 := by
  ext k hk
  by_cases hw : k < w
  · simp [hw]
  · have hbit : hdr.getLsbD k = false := by
      simpa [hmask k hk (by omega)] using congrArg (fun v => BitVec.getLsbD v k) h
    simp [hw, hbit]

/-- Without a nonzero reserved bit a format reads every bit of header[23:0]. -/
theorem fieldsRead_of_reserved {hdr : Word} {f : Format} (h : hdr &&& reservedMask f = 0) :
    fieldsRead hdr f = hdr.extractLsb' 0 24 := by
  cases f with
  | f0 =>
    have hnone : (hdr.extractLsb' 0 0).setWidth 24 = 0 := BitVec.eq_of_toNat_eq (by simp)
    exact hnone.symm.trans (low_field_of_reserved (by decide) h)
  | fi => exact low_field_of_reserved (by decide) h
  | fs => exact BitVec.extractLsb'_append_extractLsb'_eq_extractLsb' rfl
  | fl | fb => exact low_field_of_reserved (by decide) h

/-- An operand is read back from a header built of it. -/
theorem low_field_append (o : Byte) {w : Nat} (hw : w ≤ 24) (x : BitVec w) :
    (o ++ x.setWidth 24 : Word).extractLsb' 0 w = x := by
  rw [BitVec.extractLsb'_append_eq_of_add_le (by omega), ← BitVec.setWidth_eq_extractLsb' hw,
    BitVec.setWidth_setWidth_of_le _ hw, BitVec.setWidth_eq]

@[simp] theorem immOf_append (o : Byte) (imm : Half) : immOf (o ++ imm.setWidth 24) = imm :=
  low_field_append o (by decide) imm

@[simp] theorem lowByteOf_append (o b : Byte) : lowByteOf (o ++ b.setWidth 24) = b :=
  low_field_append o (by decide) b

@[simp] theorem immOf_mxSelect (bank : Byte) (ctx : Half) : immOf (Instr.mxSelect bank ctx).header = ctx :=
  (BitVec.extractLsb'_append_eq_of_add_le (by decide)).trans BitVec.extractLsb'_append_eq_right

@[simp] theorem bankOf_mxSelect (bank : Byte) (ctx : Half) : bankOf (Instr.mxSelect bank ctx).header = bank :=
  (BitVec.extractLsb'_append_eq_of_add_le (by decide)).trans BitVec.extractLsb'_append_eq_left

/-! ### The opcode map (R135) -/

/-- The map names a command by its own header and payload. -/
theorem commandOf_header {i : Instr} {p0 p1 : Word} (h : i.payload <+: [p0, p1]) :
    commandOf i.header p0 p1 = some (formatOf i, i) := by
  have hop := opOf_header i
  unfold commandOf
  rw [hop]
  cases i
  case cmSet lane fp =>
    obtain ⟨rfl, rfl⟩ : fp.extractLsb' 0 32 = p0 ∧ fp.extractLsb' 32 32 = p1 := by
      simpa [Instr.payload, List.cons_prefix_cons] using h
    have hfp : fp.extractLsb' 32 32 ++ fp.extractLsb' 0 32 = fp :=
      (BitVec.extractLsb'_append_extractLsb'_eq_extractLsb' (by decide)).trans BitVec.extractLsb'_eq_self
    simp [Instr.opcode, Instr.header, Instr.operandBits, formatOf, hfp]
  case mxSelect => simp [Instr.opcode, formatOf]
  all_goals simp [Instr.opcode, Instr.header, Instr.operandBits, formatOf]

/-- A command the map names has the header's opcode, its operands are what its format reads, and its payload words are the
first of those given. -/
theorem commandOf_eq_some {hdr p0 p1 : Word} {f : Format} {i : Instr} (h : commandOf hdr p0 p1 = some (f, i)) :
    i.opcode = opOf hdr ∧ formatOf i = f ∧ i.operandBits = fieldsRead hdr f ∧ i.payload <+: [p0, p1] := by
  unfold commandOf at h
  split at h
  case h_11 hop =>
    cases h
    refine ⟨BitVec.eq_of_toNat_eq hop.symm, rfl, rfl, ?_⟩
    rw [Instr.payload, BitVec.extractLsb'_append_eq_right, BitVec.extractLsb'_append_eq_left]
  case h_25 => cases h
  all_goals
    next hop =>
      cases h
      exact ⟨BitVec.eq_of_toNat_eq hop.symm, rfl, rfl, List.nil_prefix⟩

/-- The map names no command exactly for the opcodes of R136. -/
theorem commandOf_eq_none_iff (hdr p0 p1 : Word) : commandOf hdr p0 p1 = none ↔ illegalOp (opOf hdr).toNat = true := by
  constructor
  · intro h
    unfold commandOf at h
    split at h
    case h_25 =>
      have hlt := (opOf hdr).isLt
      simp only [illegalOp, Bool.or_eq_true, within_iff]
      -- the opcode is none of the 24 of the map
      simp only [imp_false] at *
      omega
    all_goals cases h
  · intro h
    refine Option.eq_none_iff_forall_ne_some.mpr fun ⟨f, i⟩ hsome => ?_
    obtain ⟨hop, -⟩ := commandOf_eq_some hsome
    exact absurd (h.symm.trans (hop ▸ legal_opcode i)) (by decide)

/-! ### Decoding (R132, R136, R138) -/

/-- Words that are all there give a verdict: illegal, reserved, or the command of that header and payload. -/
theorem decodeWords_eq_command_iff (hdr p0 p1 : Word) (i : Instr) :
    decodeWords hdr p0 p1 = .command i ↔ i.header = hdr ∧ i.payload <+: [p0, p1] := by
  constructor
  · intro h
    unfold decodeWords at h
    split at h
    · cases h
    · next f j hsome =>
      obtain ⟨hop, -, hfields, hpayload⟩ := commandOf_eq_some hsome
      split at h
      · next hreserved =>
        cases h
        refine ⟨?_, hpayload⟩
        rw [Instr.header, hop, hfields, fieldsRead_of_reserved hreserved, opOf_append_fields]
      · cases h
  · rintro ⟨rfl, hpayload⟩
    simp [decodeWords, commandOf_header hpayload, header_and_reservedMask]

theorem decodeWords_of_illegal {hdr : Word} (h : illegalOp (opOf hdr).toNat = true) (p0 p1 : Word) :
    decodeWords hdr p0 p1 = .illegal hdr := by
  simp [decodeWords, (commandOf_eq_none_iff hdr p0 p1).mpr h]

/-- Under a legal opcode the reserved bits of R404 decide between a command and E_RESV. -/
theorem decodeWords_of_legal {hdr : Word} (h : illegalOp (opOf hdr).toNat = false) (p0 p1 : Word) :
    ∃ i, decodeWords hdr p0 p1 =
      if hdr &&& reservedBitsOf (opOf hdr).toNat = 0 then .command i else .reserved hdr := by
  cases hsome : commandOf hdr p0 p1 with
  | none => simp [(commandOf_eq_none_iff hdr p0 p1).mp hsome] at h
  | some fi =>
    obtain ⟨f, i⟩ := fi
    obtain ⟨hop, rfl, -, -⟩ := commandOf_eq_some hsome
    exact ⟨i, by rw [decodeWords, hsome, ← hop, ← reservedMask_formatOf]⟩

theorem decode_of_short {hdr : Word} {rest : List Word} (h : rest.length + 1 < wordsOf hdr) :
    decode (hdr :: rest) = .incomplete := if_pos h

theorem decode_of_complete {hdr : Word} {rest : List Word} (h : wordsOf hdr ≤ rest.length + 1) :
    decode (hdr :: rest) = decodeWords hdr (rest.getD 0 0) (rest.getD 1 0) := if_neg (by omega)

/-- The two words the decoder reads as P0 and P1 are those of the rest, where a command has them. -/
theorem payload_prefix_iff (i : Instr) {rest : List Word} (h : i.payload.length ≤ rest.length) :
    i.payload <+: [rest.getD 0 0, rest.getD 1 0] ↔ i.payload <+: rest := by
  cases i
  case cmSet lane fp =>
    match rest, h with
    | p0 :: p1 :: l, _ => simp [Instr.payload, List.cons_prefix_cons]
  all_goals simp [Instr.payload]

/-- A command is read exactly when its encoding stands at the head of the words. -/
theorem decode_eq_command_iff (ws : List Word) (i : Instr) : decode ws = .command i ↔ encode i <+: ws := by
  cases ws with
  | nil => simp [decode, encode]
  | cons hdr rest =>
    rw [encode, List.cons_prefix_cons]
    by_cases hlen : rest.length + 1 < wordsOf hdr
    · simp only [decode_of_short hlen, reduceCtorEq, false_iff]
      rintro ⟨rfl, hprefix⟩
      have hpayload := hprefix.length_le
      rw [wordsOf_header] at hlen
      omega
    · rw [decode_of_complete (by omega), decodeWords_eq_command_iff]
      refine and_congr_right fun hhdr => payload_prefix_iff i ?_
      rw [← hhdr, wordsOf_header] at hlen
      omega

/-- Settles O1: the encoding stands at the head of itself with any words after it. -/
theorem decodeReadsEncodedCommand : Obligations.DecodeReadsEncodedCommand := fun i rest =>
  (decode_eq_command_iff (encode i ++ rest) i).mpr (List.prefix_append _ _)

/-- Settles O2: the encoding at the head of the words is what is taken of its length. -/
theorem decodedCommandIsItsEncoding : Obligations.DecodedCommandIsItsEncoding := fun ws i h =>
  have hprefix := (decode_eq_command_iff ws i).mp h
  ⟨List.prefix_iff_eq_take.mp hprefix, hprefix.length_le⟩

/-! ### The faults of the decoder (60_exceptions.md R402) -/

theorem wordsOf_of_illegal {hdr : Word} (h : illegalOp (opOf hdr).toNat = true) : wordsOf hdr = 1 := by
  refine if_neg fun hop => ?_
  rw [hop] at h
  revert h
  decide

section
variable {s : State} (hw : s.cfg.wf = true) (hh : s.halt = false) {hdr : Word}
include hw hh

theorem step_of_illegal (h : decode s.ports.cmd = .illegal hdr) : step s = .next (faultAtHead .illegal hdr s) := by
  simp [step, fetch, hw, hh, h]

theorem step_of_reserved (h : decode s.ports.cmd = .reserved hdr) : step s = .next (faultAtHead .resv hdr s) := by
  simp [step, fetch, hw, hh, h]

end

/-- Settles O3: the opcode map decides E_ILLEGAL, the mask of the format E_RESV, and what passes both is a command, which is
read only from its own header. -/
theorem rejectedHeadersFault : Obligations.RejectedHeadersFault := by
  intro s hdr rest hw hh hcmd
  refine ⟨fun hillegal => ?_, fun hlegal hlen => ?_⟩
  · have hone := wordsOf_of_illegal hillegal
    have hdecode : decode s.ports.cmd = .illegal hdr := by
      rw [hcmd, decode_of_complete (by omega), decodeWords_of_illegal hillegal]
    rw [step_of_illegal hw hh hdecode, faultAtHead, hone]
  · obtain ⟨i, hi⟩ := decodeWords_of_legal hlegal (rest.getD 0 0) (rest.getD 1 0)
    rw [← decode_of_complete hlen, ← hcmd] at hi
    refine ⟨fun hbits => step_of_reserved hw hh (hi.trans (if_neg hbits)), fun hbits => ?_⟩
    rw [if_pos hbits] at hi
    have hprefix := (decode_eq_command_iff _ i).mp hi
    rw [hcmd, encode, List.cons_prefix_cons] at hprefix
    exact ⟨i, hi, hprefix.1⟩

/-- Settles O4, by evaluating the decoder on the ten word lists. -/
theorem sampleWordsDecode : Obligations.SampleWordsDecode := by
  unfold Obligations.SampleWordsDecode
  decide

end Sys2Proof.Machine
end

section
/-! The statement of 30_encoding.md on ENCB (R140): its three commands run without a fault exactly when the inputs make up
MX_N. -/

namespace Sys2Proof.Machine

/-! ### A command's verdict, and a run of commands (40_pipeline.md R170) -/

/-- A command that fails a check of R404 faults with that check's code. -/
theorem exec_of_error {i : Instr} {s : State} {code : ErrCode} (h : expectedError i s = some code) :
    exec i s = .next (faulted code i s) := by
  obtain ⟨c, hc, he | he⟩ := exec_eq i s
  · simp [he, runCommand, hc, h, faulted]
  · simp [he, runWaiting, hc, h, faulted]

/-- A command that passes its checks, the bytes it calls for being there, has its effect. -/
theorem exec_of_ready {i : Instr} {s : State} (h : expectedError i s = none)
    (hbytes : available (bytesNeeded s i) s = true) : exec i s = .next (effectOf i (consume i.words s)) := by
  obtain ⟨c, hc, he | he⟩ := exec_eq i s
  · simp [he, runCommand, hc, h]
  · simp [he, runWaiting, hc, h, hbytes]

theorem available_zero (s : State) : available 0 s = true := by simp [available]

/-- No effect halts the core. -/
@[simp] theorem effectOf_halt (i : Instr) (s : State) : (effectOf i s).halt = s.halt := by
  cases i
  case startDec => rw [effectOf, startDecEffect_fields]; rfl
  case flush => rw [effectOf, flushEffect_fields]
  case encBit => rw [effectOf, stepEnc, afterCode, advance_fields, codeEnc_fields]; rfl
  case decBit => rw [effectOf, decBitEffect, result_halt, stepDec, afterCode, advance_fields, codeDec_fields]; rfl
  all_goals rfl

/-- Commands run without a fault exactly when the first, which waits for nothing, passes its checks and the others run from
its effect. -/
theorem runAll_cons_iff {i : Instr} {s : State} (hh : s.halt = false) (hbytes : available (bytesNeeded s i) s = true)
    (l : List Instr) :
    runAll (i :: l) s ≠ none ↔ expectedError i s = none ∧ runAll l (effectOf i (consume i.words s)) ≠ none := by
  cases he : expectedError i s with
  | none => simp [runAll, exec_of_ready he hbytes, hh]
  | some code => simp [runAll, exec_of_error he, faulted]

/-! ### Pushes (R172) -/

theorem pushInputs_count {m : Mixer} {vs : List Half} (h : m.count.toNat + vs.length ≤ m.n.toNat) :
    (pushInputs m vs).count.toNat = m.count.toNat + vs.length :=
  (pushInputs_spec vs m (h.trans_lt m.n.isLt)).1

@[simp] theorem pushInputs_n (m : Mixer) (vs : List Half) : (pushInputs m vs).n = m.n := by
  rw [pushInputs_fields]

/-! ### The three commands of ENCB in ENC -/

section
variable {s : State} (hmode : s.mode = .enc)
include hmode

theorem expectedError_cmMix_iff :
    expectedError .cmMix s = none ↔ s.mixer.count.toNat + s.cfg.cmLanes * s.cfg.laneK ≤ s.mixer.n.toNat := by
  simp [expectedError_none_iff, hmode, allowedModes, phaseHolds, Instr.operandsLegal, pushedBy, needsCount]

theorem expectedError_dmcMix_iff : expectedError .dmcMix s = none ↔ s.mixer.count.toNat + 10 ≤ s.mixer.n.toNat := by
  simp [expectedError_none_iff, hmode, allowedModes, phaseHolds, Instr.operandsLegal, pushedBy, needsCount]

theorem expectedError_encBit_iff {y : Half} (hy : y.toNat ≤ 1) :
    expectedError (.encBit y) s = none ↔ s.mixer.count.toNat = s.mixer.n.toNat := by
  simp [expectedError_none_iff, hmode, allowedModes, phaseHolds, Instr.operandsLegal, pushedBy, needsCount, hy,
    BitVec.toNat_inj, within_iff]

end

section
variable {s : State} (hh : s.halt = false)
include hh

/-- A pushing command with others after it: what it pushes counts towards the inputs the others need. -/
theorem runAll_push_iff {i : Instr} {l : List Instr} {vs : List Half} {k : Nat}
    (hbytes : available (bytesNeeded s i) s = true)
    (hcheck : expectedError i s = none ↔ s.mixer.count.toNat + vs.length ≤ s.mixer.n.toNat)
    (heffect : (effectOf i (consume i.words s)).mixer = pushInputs s.mixer vs)
    (hrest : runAll l (effectOf i (consume i.words s)) ≠ none ↔
      (effectOf i (consume i.words s)).mixer.count.toNat + k = (effectOf i (consume i.words s)).mixer.n.toNat) :
    runAll (i :: l) s ≠ none ↔ s.mixer.count.toNat + vs.length + k = s.mixer.n.toNat := by
  rw [runAll_cons_iff hh hbytes, hcheck, hrest, heffect, pushInputs_n]
  constructor
  · rintro ⟨hroom, hcount⟩
    rwa [pushInputs_count hroom] at hcount
  · intro hcount
    have hroom : s.mixer.count.toNat + vs.length ≤ s.mixer.n.toNat := by omega
    exact ⟨hroom, by rwa [pushInputs_count hroom]⟩

variable (hmode : s.mode = .enc) {y : Half} (hy : y.toNat ≤ 1)
include hmode hy

theorem runAll_encBit_iff : runAll [.encBit y] s ≠ none ↔ s.mixer.count.toNat = s.mixer.n.toNat := by
  rw [runAll_cons_iff (i := .encBit y) hh (available_zero s), expectedError_encBit_iff hmode hy]
  simp [runAll]

variable (hinsts : s.dmc.insts.length = dmcN)
include hinsts

theorem runAll_dmcMix_encBit_iff :
    runAll [.dmcMix, .encBit y] s ≠ none ↔ s.mixer.count.toNat + 10 = s.mixer.n.toNat := by
  have hlength : (dmcInputs s.dmc).length = 10 := (dmcInputs_length s.dmc).trans hinsts
  have h := runAll_push_iff (i := .dmcMix) (vs := dmcInputs s.dmc) (k := 0) hh (available_zero s)
    (hlength ▸ expectedError_dmcMix_iff hmode) rfl
    (runAll_encBit_iff (s := effectOf .dmcMix (consume Instr.dmcMix.words s)) hh hmode hy)
  rwa [hlength] at h

theorem runAll_encb_iff : runAll (expandLine (.encb y)) s ≠ none ↔
    s.mixer.count.toNat + s.cfg.cmLanes * s.cfg.laneK + 10 = s.mixer.n.toNat := by
  have hlength := cmInputs_length s.cfg s.bpos s.c0 s.cm
  have h := runAll_push_iff (i := .cmMix) (vs := cmInputs s.cfg s.bpos s.c0 s.cm) (k := 10) hh
    (available_zero s) (hlength ▸ expectedError_cmMix_iff hmode) rfl
    (runAll_dmcMix_encBit_iff (s := effectOf .cmMix (consume Instr.cmMix.words s)) hh hmode hy hinsts)
  rwa [hlength] at h

end

/-- Settles O59: CM_MIX and DMC_MIX fit and ENC_BIT finds MX_COUNT = MX_N only for the one sum of R140. -/
theorem encbRunsExactlyWhenTheCountFits : Obligations.EncbRunsExactlyWhenTheCountFits :=
  fun _ _ hmode hh hy hinsts => runAll_encb_iff hh hmode hy hinsts

end Sys2Proof.Machine
end

section
/-! The command cycle (40_pipeline.md R170, R181): what a step runs, when it takes nothing, that it always has a next state,
and how MODE moves. -/

namespace Sys2Proof.Machine

/-! ### The branches of a step (R170) -/

section
variable {s : State} (hw : s.cfg.wf = true)
include hw

theorem step_of_halted (hh : s.halt = true) : step s = .next s := by simp [step, hw, hh]

theorem step_of_incomplete (h : decode s.ports.cmd = .incomplete) : step s = .next s := by simp [step, fetch, hw, h]

theorem step_of_command (hh : s.halt = false) {i : Instr} (h : decode s.ports.cmd = .command i) : step s = exec i s := by
  simp [step, fetch, hw, hh, h]

end

/-- Settles O5: the step of a decoded command is its own branch. -/
theorem stepRunsDecodedCommand : Obligations.StepRunsDecodedCommand := fun _ _ hw hh h => step_of_command hw hh h

/-! ### What takes nothing (20_memory.md R102, 60_exceptions.md R403, R408) -/

/-- Every host action but hardware reset writes a port and leaves HALT. -/
theorem hostDo_halt {a : HostAction} (ha : a ≠ .reset) (s : State) : (hostDo a s).halt = s.halt := by
  cases a with
  | writeCommand w => exact hostWriteCommand_halt s w
  | pushByte b => rw [hostDo, hostPushByte]; split <;> rfl
  | raiseEos => exact hostRaiseEos_halt s
  | takeResult => rw [hostDo, hostTakeResult]; split <;> rfl
  | takeByte => rw [hostDo, hostTakeByte]; split <;> rfl
  | reset => exact absurd rfl ha

theorem hostDo_clears_halt_iff {s : State} (hh : s.halt = true) (a : HostAction) :
    (hostDo a s).halt = false ↔ a = .reset := by
  constructor
  · intro h
    by_contra ha
    simp [hostDo_halt ha, hh] at h
  · rintro rfl
    rfl

/-- Settles O6: the halted and the waiting branch of a step, and what each host action does to HALT. -/
theorem haltedOrWaitingCoreTakesNothing : Obligations.HaltedOrWaitingCoreTakesNothing :=
  ⟨fun _ hw hh => step_of_halted hw hh, fun _ hw h => step_of_incomplete hw h, fun _ a hh => hostDo_clears_halt_iff hh a⟩

/-! ### A next state (60_exceptions.md R402) -/

theorem runCommand_has_next (i : Instr) (c : Checks) (effect : State → State) (s : State) :
    ∃ t, runCommand i c effect s = .next t := by
  unfold runCommand
  split <;> exact ⟨_, rfl⟩

theorem runWaiting_has_next (i : Instr) (c : Checks) (need : Nat) (effect : State → State) (s : State) :
    ∃ t, runWaiting i c need effect s = .next t := by
  unfold runWaiting
  split
  · exact ⟨_, rfl⟩
  · split <;> exact ⟨_, rfl⟩

theorem exec_has_next (i : Instr) (s : State) : ∃ t, exec i s = .next t := by
  obtain ⟨c, h⟩ | ⟨c, n, h⟩ := exec_shape i s <;> rw [h]
  · exact runCommand_has_next i c _ s
  · exact runWaiting_has_next i c n _ s

/-- Settles O8: a step waits, faults on the header, or runs a command, and each of these has a next state. -/
theorem stepAlwaysHasNextState : Obligations.StepAlwaysHasNextState := by
  intro s hw
  cases hh : s.halt with
  | true => exact ⟨s, step_of_halted hw hh⟩
  | false =>
    cases h : decode s.ports.cmd with
    | incomplete => exact ⟨s, step_of_incomplete hw h⟩
    | illegal hdr => exact ⟨_, step_of_illegal hw hh h⟩
    | reserved hdr => exact ⟨_, step_of_reserved hw hh h⟩
    | command i => exact step_of_command hw hh h ▸ exec_has_next i s

/-! ### The mode graph (R181) -/

/-- MODE after a command that ran in the mode `m`. -/
def modeAfter : Instr → Mode → Mode
  | .startEnc, _ => .enc
  | .startDec, _ => .dec
  | .flush, _ | .stop, _ => .idle
  | _, m => m

theorem effectOf_mode (i : Instr) (s : State) : (effectOf i s).mode = modeAfter i s.mode := by
  cases i
  case encBit => rw [effectOf, stepEnc, afterCode, advance_fields, codeEnc_fields]; rfl
  case decBit => rw [effectOf, decBitEffect, result_mode, stepDec, afterCode, advance_fields, codeDec_fields]; rfl
  all_goals rfl

/-- Settles O10: waiting and a fault keep MODE, and a command that changes it is one of the four edges, whose row of
60_exceptions.md R404 names the mode it starts from. -/
theorem modeChangesOnlyAlongTheGraph : Obligations.ModeChangesOnlyAlongTheGraph := by
  intro s t hstep
  refine ⟨step_keeps_cfg hstep, fun hne => ?_⟩
  obtain ⟨-, rfl | ⟨code, hdr, rfl⟩ | ⟨i, -, hdecode, hexec⟩⟩ := step_cases hstep
  · exact absurd rfl hne
  · exact absurd rfl hne
  obtain rfl | ⟨code, -, rfl⟩ | ⟨hnone, rfl⟩ := exec_outcome hexec
  · exact absurd rfl hne
  · exact absurd rfl hne
  have hmode : s.mode ∈ allowedModes i := ((expectedError_none_iff i s).mp hnone).1
  rw [effectOf_mode, consume_mode] at hne ⊢
  cases i
  case startEnc => exact .inl ⟨List.mem_singleton.mp hmode, rfl, hdecode⟩
  case startDec => exact .inr (.inl ⟨List.mem_singleton.mp hmode, rfl, hdecode⟩)
  case flush => exact .inr (.inr (.inl ⟨List.mem_singleton.mp hmode, rfl, hdecode⟩))
  case stop => exact .inr (.inr (.inr ⟨List.mem_singleton.mp hmode, rfl, hdecode⟩))
  all_goals exact absurd rfl hne

end Sys2Proof.Machine
end

section
/-! The commands that only read (40_pipeline.md R178 to R180): NOP, PEEK_P and READ_REG. -/

namespace Sys2Proof.Machine

theorem mode_mem_every (m : Mode) : m ∈ [Mode.idle, .enc, .dec] := of_decide_eq_true (mode_mem_all m).symm

/-! ### NOP (R178) -/

theorem expectedError_nop (s : State) : expectedError .nop s = none :=
  (expectedError_none_iff _ s).mpr ⟨mode_mem_every _, rfl, rfl, by simp [pushedBy], by simp [needsCount]⟩

/-- Settles O25: NOP passes every check, waits for no byte, and its effect is the state it is given. -/
theorem nopDoesNothing : Obligations.NopDoesNothing := fun s => exec_of_ready (expectedError_nop s) (available_zero s)

/-! ### PEEK_P (R179) -/

/-- Two numbers of at most 16 bits in the halves of a word are read back from them. -/
theorem halves_of_word {low high : Nat} (hlow : low < 2 ^ 16) (hhigh : high < 2 ^ 16) :
    ((BitVec.ofNat 32 low ||| (BitVec.ofNat 32 high <<< 16)).extractLsb' 0 16).toNat = low ∧
    ((BitVec.ofNat 32 low ||| (BitVec.ofNat 32 high <<< 16)).extractLsb' 16 16).toNat = high := by
  have hl : (BitVec.ofNat 32 low).toNat = low := Nat.mod_eq_of_lt (by omega)
  have hh : (BitVec.ofNat 32 high).toNat = high := Nat.mod_eq_of_lt (by omega)
  have hword : (BitVec.ofNat 32 low ||| (BitVec.ofNat 32 high <<< 16)).toNat = high * 2 ^ 16 + low := by
    rw [BitVec.or_comm, toNat_shiftLeft_or (by omega) _ _ (by omega), hl, hh, Nat.mod_eq_of_lt hhigh]
  rw [BitVec.extractLsb'_toNat, BitVec.extractLsb'_toNat, hword, Nat.shiftRight_eq_div_pow, Nat.shiftRight_eq_div_pow]
  omega

theorem peekWord_predict (m : Mixer) (a : Apm) :
    ((peekWord (predict m a)).extractLsb' 0 16).toNat = (predict m a).pFinal ∧
    ((peekWord (predict m a)).extractLsb' 16 16).toNat = (predict m a).pMix := by
  have hfinal := (predict_pFinal_bounds m a).2
  have hmix : (predict m a).pMix ≤ 4094 := (squash_bounds _).2
  exact halves_of_word (by omega) (by omega)

theorem expectedError_peekP_of_idle {s : State} (h : s.mode = .idle) : expectedError .peekP s = some .mode := by
  simp [expectedError, allowedModes, h]

/-- In a session PEEK_P checks the count of inputs alone. -/
theorem expectedError_peekP {s : State} (h : s.mode ≠ .idle) :
    expectedError .peekP s = if s.mixer.count = s.mixer.n then none else some .count := by
  have hmode : s.mode ∈ allowedModes .peekP := by
    cases hm : s.mode with
    | idle => exact absurd hm h
    | enc | dec => simp [allowedModes]
  simp [expectedError, hmode, phaseHolds, Instr.operandsLegal, pushedBy, needsCount]

/-- Settles O26: E_MODE or E_COUNT by PEEK_P's row of R404, else the two halves of the word it appends. -/
theorem peekPReportsThePrediction : Obligations.PeekPReportsThePrediction := by
  refine ⟨fun s h => exec_of_error (expectedError_peekP_of_idle h), fun s h hcount => exec_of_error ?_,
    fun s h hcount => ?_⟩
  · rw [expectedError_peekP h, if_neg hcount]
  · have hnone : expectedError .peekP s = none := by rw [expectedError_peekP h, if_pos hcount]
    exact ⟨_, exec_of_ready hnone (available_zero s), peekWord_predict s.mixer s.apm⟩

/-! ### READ_REG (R180) -/

/-- The index is all that READ_REG checks. -/
theorem expectedError_readReg (imm : Half) (s : State) :
    expectedError (.readReg imm) s = if s.cfg.definesReg imm.toNat = true then none else some .range := by
  have hmode : s.mode ∈ allowedModes (.readReg imm) := mode_mem_every _
  cases h : s.cfg.definesReg imm.toNat <;>
    simp [expectedError, hmode, phaseHolds, Instr.operandsLegal, pushedBy, needsCount, h]

/-- No register is the command port. -/
theorem readRegister_consume (n : Nat) (s : State) (k : Nat) : readRegister (consume n s) k = readRegister s k := rfl

theorem effectOf_readReg {imm : Half} {s : State} {w : Word} (h : readRegister s imm.toNat = some w) :
    effectOf (.readReg imm) s = result w s := by
  simp [effectOf, immNat, h]

/-- Settles O27: an index the map has passes the one check, and the value there is what the command appends. -/
theorem readRegReturnsTheRegister : Obligations.ReadRegReturnsTheRegister := by
  intro imm s
  refine ⟨fun hdefined => ?_, fun hundefined => exec_of_error ?_⟩
  · obtain ⟨w, hread⟩ := Option.isSome_iff_exists.mp ((isSome_readRegister s imm.toNat).trans hdefined)
    have hnone : expectedError (.readReg imm) s = none := by rw [expectedError_readReg, if_pos hdefined]
    refine ⟨w, hread, (exec_of_ready hnone (available_zero s)).trans ?_⟩
    rw [effectOf_readReg (s := consume _ s) ((readRegister_consume ..).trans hread)]
    rfl
  · rw [expectedError_readReg, hundefined]
    rfl

end Sys2Proof.Machine
end

section
/-! What a coded bit does to the position registers and the lanes (40_pipeline.md R175 to R177, 43_contextmap.md R263). -/

namespace Sys2Proof.Machine

/-! ### The registers of the lanes -/

theorem laneAt_lanesTrained (s : State) (y : Bool) (l : Nat) : laneAt (lanesTrained s y) l = laneAt s.cm l := by
  rw [← cmUpdateAll_eq]
  exact laneAt_congr (cmUpdateAll_fields ..).1 l

/-- A lane beyond the register file reads as a cleared one. -/
theorem laneAt_lanesClosed_valid (c : Cfg) (byte : Byte) (m : ContextMap) (l : Nat) :
    (laneAt (lanesClosed c byte m) l).valid = false := by
  simp only [laneAt, lanesClosed, List.getD_eq_getElem?_getD, List.getElem?_map]
  cases ((validLanes m c.cmLanes).foldl (fun m l => cmRunUpdate byte l m) m).lanes[l]? <;> rfl

/-! ### CM_RESOLVE lane by lane (R177) -/

theorem validLanes_succ (m : ContextMap) (n : Nat) :
    validLanes m (n + 1) = if (laneAt m n).valid then validLanes m n ++ [n] else validLanes m n := by
  rw [validLanes, List.range_succ, List.filter_append, ← validLanes]
  cases h : (laneAt m n).valid <;> simp [h]

section
variable (c : Cfg) (c0 : BitVec 9) (m : ContextMap)

theorem lanesResolved_zero : lanesResolved c c0 0 m = m := rfl

/-- CM_RESOLVE takes lane `n` after the lanes below it, if it is valid. -/
theorem lanesResolved_succ (n : Nat) : lanesResolved c c0 (n + 1) m =
    if (laneAt m n).valid then resolveLane c c0 n (lanesResolved c c0 n m) else lanesResolved c c0 n m := by
  rw [lanesResolved, validLanes_succ]
  split
  · rw [List.foldl_append]; rfl
  · rfl

theorem lanesResolved_length (n : Nat) : (lanesResolved c c0 n m).lanes.length = m.lanes.length :=
  foldl_keeps (fun t => t.lanes.length = m.lanes.length) _ _ m rfl fun _ l _ ht =>
    setLane_length (lookup_length ht c c0 l) _ _

/-- A valid lane gets the handle LOOKUP gives once the lanes below it are resolved; every other register stays. -/
theorem laneAt_lanesResolved (n l : Nat) : laneAt (lanesResolved c c0 n m) l =
    if l < n ∧ l < m.lanes.length ∧ (laneAt m l).valid = true
    then { laneAt m l with cur := (lookup c c0 l (lanesResolved c c0 l m)).1 } else laneAt m l := by
  induction n with
  | zero => simp [lanesResolved_zero]
  | succ n ih =>
    rw [lanesResolved_succ]
    by_cases hl : l = n
    · subst hl
      cases hv : (laneAt m l).valid <;> simp [laneAt_resolveLane, lanesResolved_length, ih, hv]
    · have hlt : l < n + 1 ↔ l < n := by omega
      cases hv : (laneAt m n).valid <;> simp [laneAt_resolveLane, hl, hlt, ih]

theorem laneAt_lanesResolved_keeps (n l : Nat) :
    (laneAt (lanesResolved c c0 n m) l).valid = (laneAt m l).valid ∧
    (laneAt (lanesResolved c c0 n m) l).fp = (laneAt m l).fp ∧
    (laneAt (lanesResolved c c0 n m) l).h0 = (laneAt m l).h0 ∧
    ((laneAt m l).valid = false → (laneAt (lanesResolved c c0 n m) l).cur = (laneAt m l).cur) := by
  rw [laneAt_lanesResolved]
  split
  · next h =>
    obtain ⟨-, -, hvalid⟩ := h
    exact ⟨rfl, rfl, rfl, fun hinvalid => absurd (hvalid.symm.trans hinvalid) (by decide)⟩
  · exact ⟨rfl, rfl, rfl, fun _ => rfl⟩

/-- HASH takes the fingerprint a valid lane had before CM_RESOLVE, FIND the map the lanes below it have left; nothing else
writes the slots and the MRU pairs. -/
theorem lanesResolved_find {n l : Nat} {fp : Long} (hl : l < n) (hlength : l < m.lanes.length)
    (hvalid : (laneAt m l).valid = true) (hfp : (laneAt m l).fp = fp) :
    let h := hash c.cmLog2b fp l c0
    let r := find c.cmSlots h.1.toNat h.2 (lanesResolved c c0 l m)
    (laneAt (lanesResolved c c0 n m) l).cur = ⟨h.1, BitVec.ofNat 4 r.1⟩ ∧
    ∀ b k, slotAt (lanesResolved c c0 (l + 1) m) b k = slotAt r.2 b k ∧
      mruAt (lanesResolved c c0 (l + 1) m) b = mruAt r.2 b := by
  intro h r
  obtain ⟨-, hkept, -, -⟩ := laneAt_lanesResolved_keeps c c0 m l l
  have hlookup : lookup c c0 l (lanesResolved c c0 l m) = (⟨h.1, BitVec.ofNat 4 r.1⟩, r.2) := by
    rw [lookup, hkept, hfp]
  constructor
  · rw [laneAt_lanesResolved, if_pos ⟨hl, hlength, hvalid⟩, hlookup]
  · intro b k
    rw [lanesResolved_succ, if_pos hvalid, resolveLane, hlookup]
    exact ⟨rfl, rfl⟩

end

/-! ### The position (R175) -/

/-- What coding the bit `y` in `s` leaves in `t` of the position registers and the context map: a byte boundary after the
eighth bit, and before it CM_RESOLVE at the new positions 2 and 5. -/
structure BitAdvances (y : Bool) (s t : State) : Prop where
  boundary : s.bpos = 7 → t.bpos = 0 ∧ t.c0 = 1 ∧ t.c1 = (pushBit s.c0 y - 256).setWidth 8 ∧
    t.cm = lanesClosed s.cfg ((pushBit s.c0 y - 256).setWidth 8) (lanesTrained s y)
  inside : s.bpos ≠ 7 → t.bpos = s.bpos + 1 ∧ t.c0 = pushBit s.c0 y ∧ t.c1 = s.c1
  resolved : s.bpos = 1 ∨ s.bpos = 4 →
    t.cm = lanesResolved s.cfg (pushBit s.c0 y) s.cfg.cmLanes (lanesTrained s y)
  trained : s.bpos ≠ 7 → s.bpos ≠ 1 → s.bpos ≠ 4 → t.cm = lanesTrained s y

theorem ofNat_bpos_succ (b : BitVec 3) : BitVec.ofNat 3 (b.toNat + 1) = b + 1 := by simp [BitVec.ofNat_add]

theorem afterCode_advances (pr : Prediction) (y : Bool) (s : State) : BitAdvances y s (afterCode pr y s) := by
  have htrained : (update pr y (setLastP pr s)).cm = lanesTrained s y := cmUpdateAll_eq s y
  have h7 : s.bpos.toNat = 7 ↔ s.bpos = 7 := BitVec.toNat_inj (y := 7)
  have h1 : s.bpos.toNat = 1 ↔ s.bpos = 1 := BitVec.toNat_inj (y := 1)
  have h4 : s.bpos.toNat = 4 ↔ s.bpos = 4 := BitVec.toNat_inj (y := 4)
  by_cases hlast : s.bpos = 7
  · have hadvance := advance_of_last (s := update pr y (setLastP pr s)) (h7.mpr hlast) y
    refine ⟨fun _ => ?_, fun h => absurd hlast h, fun h => ?_, fun h => absurd hlast h⟩
    · rw [afterCode, hadvance, ← htrained, ← cmBoundary_eq]
      exact ⟨rfl, rfl, rfl, rfl⟩
    · rw [hlast] at h
      exact absurd h (by decide)
  · have hadvance := advance_of_inside (s := update pr y (setLastP pr s)) (mt h7.mp hlast) y
    have hbpos : (afterCode pr y s).bpos = s.bpos + 1 := by rw [afterCode, hadvance, ← ofNat_bpos_succ]; rfl
    have hcm : (afterCode pr y s).cm =
        if s.bpos = 1 ∨ s.bpos = 4 then lanesResolved s.cfg (pushBit s.c0 y) s.cfg.cmLanes (lanesTrained s y)
        else lanesTrained s y := by
      simp only [afterCode, hadvance, htrained, cmResolve_eq, update_bpos, setLastP_bpos, h1, h4]
      rfl
    refine ⟨fun h => absurd h hlast, fun _ => ⟨hbpos, ?_, ?_⟩, fun h => hcm.trans (if_pos h),
      fun _ hne1 hne4 => hcm.trans (if_neg (not_or_intro hne1 hne4))⟩ <;> rw [afterCode, hadvance] <;> rfl

/-- Neither CODE nor the command port is part of what advances. -/
theorem BitAdvances.of_coded {y : Bool} {s t : State} {k : Coder} {outCnt inCnt : Word} {p : Ports}
    (h : BitAdvances y { s with coder := k, outCnt := outCnt, inCnt := inCnt, ports := p } t) : BitAdvances y s t :=
  ⟨h.boundary, h.inside, h.resolved, h.trained⟩

theorem BitAdvances.result {y : Bool} {s t : State} (h : BitAdvances y s t) (w : Word) : BitAdvances y s (result w t) :=
  ⟨h.boundary, h.inside, h.resolved, h.trained⟩

/-- A command that codes the bit `y`: ENC_BIT with that operand, or DEC_BIT where it decodes that bit. -/
def CodesBit (i : Instr) (s : State) (y : Bool) : Prop :=
  i = .encBit (if y then 1 else 0) ∨ (i = .decBit ∧ decBitOf s = y)

theorem immBit_of_bit (y : Bool) : immBit (if y then 1 else 0) = y := by cases y <;> rfl

/-- ENC_BIT and DEC_BIT differ in CODE and the result word alone. -/
theorem effectOf_advances {i : Instr} {s : State} {y : Bool} (h : CodesBit i s y) (n : Nat) :
    BitAdvances y s (effectOf i (consume n s)) := by
  obtain rfl | ⟨rfl, rfl⟩ := h
  · rw [effectOf, immBit_of_bit, stepEnc, codeEnc_fields]
    exact (afterCode_advances ..).of_coded
  · rw [effectOf, decBitEffect, stepDec, codeDec_fields]
    exact (afterCode_advances ..).of_coded.result _

/-! ### The registers after the bit -/

section
variable {y : Bool} {s t : State} (h : BitAdvances y s t)
include h

theorem BitAdvances.valid_of_last (hlast : s.bpos = 7) (l : Nat) : (laneAt t.cm l).valid = false := by
  obtain ⟨-, -, -, hcm⟩ := h.boundary hlast
  rw [hcm, laneAt_lanesClosed_valid]

/-- The positions 2 and 5, at which the valid lanes are resolved, are those after 1 and 4. -/
theorem BitAdvances.resolves_iff (hne : s.bpos ≠ 7) : t.bpos = 2 ∨ t.bpos = 5 ↔ s.bpos = 1 ∨ s.bpos = 4 := by
  obtain ⟨hbpos, -, -⟩ := h.inside hne
  rw [hbpos]
  generalize s.bpos = b
  revert b
  decide

theorem BitAdvances.lanes (hne : s.bpos ≠ 7) (l : Nat) :
    (laneAt t.cm l).valid = (laneAt s.cm l).valid ∧ (laneAt t.cm l).fp = (laneAt s.cm l).fp ∧
    (laneAt t.cm l).h0 = (laneAt s.cm l).h0 ∧
    ((t.bpos ≠ 2 ∧ t.bpos ≠ 5) ∨ (laneAt s.cm l).valid = false → (laneAt t.cm l).cur = (laneAt s.cm l).cur) := by
  have hiff := h.resolves_iff hne
  by_cases hresolve : s.bpos = 1 ∨ s.bpos = 4
  · have hkeeps := laneAt_lanesResolved_keeps s.cfg (pushBit s.c0 y) (lanesTrained s y) s.cfg.cmLanes l
    rw [← h.resolved hresolve, laneAt_lanesTrained] at hkeeps
    obtain ⟨hvalid, hfp, hh0, hcur⟩ := hkeeps
    refine ⟨hvalid, hfp, hh0, fun hor => hcur (hor.resolve_left fun hneither => ?_)⟩
    exact not_or_intro hneither.1 hneither.2 (hiff.mpr hresolve)
  · have ⟨hne1, hne4⟩ := not_or.mp hresolve
    rw [h.trained hne hne1 hne4, laneAt_lanesTrained]
    exact ⟨rfl, rfl, rfl, fun _ => rfl⟩

end

/-! ### The partial byte (R46) -/

theorem PositionInv.c0_lt {s : State} (h : PositionInv s) : s.c0.toNat < 256 :=
  h.c0High.trans_le (Nat.pow_le_pow_right (n := 2) (j := 8) (by decide) s.bpos.isLt)

/-- The ninth bit of the completed C0 is the leading 1 that goes; the byte is what stands below it. -/
theorem completedByte_toNat {c0 : BitVec 9} (hlow : 128 ≤ c0.toNat) (hhigh : c0.toNat < 256) (y : Bool) :
    ((pushBit c0 y - 256).setWidth 8).toNat = 2 * c0.toNat + bitNat y - 256 := by
  have hpush := pushBit_toNat hhigh y
  have hbit := bitNat_le y
  have hsub : (pushBit c0 y - 256).toNat = (pushBit c0 y).toNat - 256 :=
    BitVec.toNat_sub_of_le (BitVec.le_def.mpr (by rw [hpush]; simp; omega))
  rw [BitVec.toNat_setWidth, hsub, hpush]
  omega

/-- Settles O19: the bit advances the position; a boundary closes the lanes, the positions 2 and 5 resolve them one after the
other, and at every other position their registers stay. -/
theorem codingAdvancesThePosition : Obligations.CodingAdvancesThePosition := by
  intro i s t y hcodes hposition hlanes hnone hbytes hexec
  rw [exec_of_ready hnone hbytes] at hexec
  have h : BitAdvances y s t := Host.Outcome.next.inj hexec ▸ effectOf_advances hcodes i.words
  refine ⟨fun hlast => ?_, fun hne => ?_⟩
  · obtain ⟨hbpos, hc0, hc1, -⟩ := h.boundary hlast
    have hlow : 128 ≤ s.c0.toNat := by simpa [hlast] using hposition.c0Low
    exact ⟨hbpos, hc0, hc1 ▸ completedByte_toNat hlow hposition.c0_lt y, fun l _ => h.valid_of_last hlast l⟩
  · obtain ⟨hbpos, hc0, hc1⟩ := h.inside hne
    refine ⟨hbpos, hc0 ▸ pushBit_toNat hposition.c0_lt y, hc1, fun l _ => h.lanes hne l, fun hresolves => ?_⟩
    have hcm := h.resolved ((h.resolves_iff hne).mp hresolves)
    rw [← hc0] at hcm
    refine ⟨fun l hl hvalid => ?_, hcm⟩
    have hlane := laneAt_lanesTrained s y l
    have hlength : l < (lanesTrained s y).lanes.length := by
      rw [← cmUpdateAll_eq, cmUpdateAll_length hlanes]
      exact hl
    rw [hcm]
    exact lanesResolved_find s.cfg t.c0 (lanesTrained s y) hl hlength (hlane ▸ hvalid) (hlane ▸ rfl)

end Sys2Proof.Machine
end

section
/-! The statements of 41_coder.md on the interval: SPLIT and NARROW (R203), the bytes that normalisation settles (R204), and
the window of archive bytes it stands against (R202). -/

namespace Sys2Proof.Machine

/-! ### SPLIT and NARROW (R203) -/

/-- The upper part begins above the midpoint, which has room for that below X2. -/
theorem narrow_false_low {x1 x2 xmid : Word} (hhigh : xmid.toNat < x2.toNat) :
    (narrow false x1 x2 xmid).1.toNat = xmid.toNat + 1 := by
  have h2 := x2.isLt
  exact BitVec.toNat_add_of_lt (by simp; omega)

/-- Settles O23: a quotient by 4096 taken at most 4094 times stays below X2, so neither the midpoint nor its successor wraps. -/
theorem splitStaysInsideTheInterval : Obligations.SplitStaysInsideTheInterval := fun _ _ _ hlt _ hp =>
  have ⟨_, hhigh⟩ := splitPoint_bounds hlt hp
  ⟨splitPoint_toNat hlt.le (by omega), hhigh, rfl, narrow_false_low hhigh, rfl⟩

/-! ### The bytes of a bound (R204, R208) -/

theorem shiftLeft_or_toNat (x : Word) {low : Word} (hlow : low.toNat < 256) :
    ((x <<< 8) ||| low).toNat = x.toNat % 2 ^ 24 * 256 + low.toNat :=
  toNat_shiftLeft_or (i := 8) (by omega) x low hlow

/-- A pass shifts the top byte out and the others up, whatever it shifts in. -/
theorem flushBytes_eq_cons (x : Word) {low : Word} (hlow : low.toNat < 256) :
    flushBytes x = topByte x :: (flushBytes ((x <<< 8) ||| low)).take 3 := by
  have h := shiftLeft_or_toNat x hlow
  simp only [flushBytes, topByte, List.take_succ_cons, List.take_zero, List.cons.injEq, and_true, true_and]
  simp only [← BitVec.toNat_inj, BitVec.extractLsb'_toNat, Nat.shiftRight_eq_div_pow, h]
  omega

/-! ### Normalisation (R204) -/

theorem settle_of_apart {n : Nat} {x1 x2 : Word} (h : topByte x1 ≠ topByte x2) :
    settle (n + 1) x1 x2 = ([], x1, x2) := if_neg h

theorem settle_of_shared {n : Nat} {x1 x2 : Word} (h : topByte x1 = topByte x2) :
    settle (n + 1) x1 x2 =
      (topByte x2 :: (settle n (x1 <<< 8) ((x2 <<< 8) ||| 255)).1, (settle n (x1 <<< 8) ((x2 <<< 8) ||| 255)).2) := if_pos h

/-- What `n` passes over the bounds `x1`, `x2` leave in `r`. -/
structure Settled (n : Nat) (x1 x2 : Word) (r : List Byte × Word × Word) : Prop where
  length : r.1.length ≤ n
  stops : r.1.length < n → topByte r.2.1 ≠ topByte r.2.2
  leadLow : r.1 = (flushBytes x1).take r.1.length
  leadHigh : r.1 = (flushBytes x2).take r.1.length
  low : r.2.1.toNat = x1.toNat * 256 ^ r.1.length % 2 ^ 32
  high : r.2.2.toNat = (x2.toNat * 256 ^ r.1.length + (256 ^ r.1.length - 1)) % 2 ^ 32

theorem settled_none {n : Nat} {x1 x2 : Word} (h : 0 < n → topByte x1 ≠ topByte x2) : Settled n x1 x2 ([], x1, x2) where
  length := Nat.zero_le n
  stops := h
  leadLow := rfl
  leadHigh := rfl
  low := by simpa using (Nat.mod_eq_of_lt x1.isLt).symm
  high := by simpa using (Nat.mod_eq_of_lt x2.isLt).symm

/-- One more leading byte of a bound: those after it are the leading bytes of the bound shifted. -/
theorem lead_cons {x low : Word} (hlow : low.toNat < 256) {l : List Byte} (hl : l.length ≤ 3)
    (h : l = (flushBytes ((x <<< 8) ||| low)).take l.length) :
    topByte x :: l = (flushBytes x).take (l.length + 1) := by
  rw [flushBytes_eq_cons x hlow, List.take_succ_cons, List.take_take, min_eq_left hl, ← h]

theorem Settled.cons {n : Nat} {x1 x2 : Word} {r : List Byte × Word × Word} (hn : n ≤ 3) (htop : topByte x1 = topByte x2)
    (h : Settled n (x1 <<< 8) ((x2 <<< 8) ||| 255) r) : Settled (n + 1) x1 x2 (topByte x2 :: r.1, r.2) := by
  obtain ⟨hlength, hstops, hleadLow, hleadHigh, hlow, hhigh⟩ := h
  have hl : r.1.length ≤ 3 := hlength.trans hn
  rw [← BitVec.or_zero (x := x1 <<< 8)] at hleadLow
  refine ⟨Nat.succ_le_succ hlength, fun h => hstops (Nat.lt_of_succ_lt_succ h), ?_, lead_cons (by decide) hl hleadHigh, ?_, ?_⟩
  · rw [← htop]
    exact lead_cons (by decide) hl hleadLow
  · have hshift : (x1 <<< 8).toNat = x1.toNat * 256 % 2 ^ 32 := by rw [shiftLow_toNat]; omega
    rw [hlow, hshift, Nat.mod_mul_mod, List.length_cons, pow_succ' 256, mul_assoc]
  · have hshift : ((x2 <<< 8) ||| 255).toNat = (x2.toNat * 256 + 255) % 2 ^ 32 := by
      have := shiftHigh_toNat x2
      omega
    have hpos : 0 < 256 ^ r.1.length := Nat.pow_pos (by decide)
    have hsum : (x2.toNat * 256 + 255) * 256 ^ r.1.length + (256 ^ r.1.length - 1) =
        x2.toNat * 256 ^ (r.1.length + 1) + (256 ^ (r.1.length + 1) - 1) := by
      rw [pow_succ', add_mul, mul_assoc]
      omega
    rw [hhigh, hshift, List.length_cons, ← hsum, Nat.add_mod, Nat.mod_mul_mod, ← Nat.add_mod]

theorem settle_settled : ∀ (n : Nat) (x1 x2 : Word), n ≤ 4 → Settled n x1 x2 (settle n x1 x2)
  | 0, _, _, _ => settled_none (fun h => absurd h (by decide))
  | n + 1, x1, x2, hn => by
    by_cases htop : topByte x1 = topByte x2
    · rw [settle_of_shared htop]
      exact (settle_settled n _ _ (by omega)).cons (by omega) htop
    · rw [settle_of_apart htop]
      exact settled_none fun _ => htop

theorem normalise_settled (x1 x2 : Word) : Settled 4 x1 x2 (normalise x1 x2) := settle_settled 4 x1 x2 le_rfl

/-- Fewer than four passes stop at different top bytes; four leave the bounds 0 and 2^32 - 1. -/
theorem Settled.apart {x1 x2 : Word} {r : List Byte × Word × Word} (h : Settled 4 x1 x2 r) :
    topByte r.2.1 ≠ topByte r.2.2 := by
  obtain hlt | hfour := h.length.lt_or_eq
  · exact h.stops hlt
  · have hlow := h.low
    have hhigh := h.high
    rw [hfour] at hlow hhigh
    rw [Ne, topByte_eq_iff]
    omega

/-- Settles O24: what each pass settles and shifts in, four of them leave the full interval, and the order is that of
`normalise_legal`. -/
theorem normalisationSettlesSharedBytes : Obligations.NormalisationSettlesSharedBytes := fun x1 x2 =>
  have h := normalise_settled x1 x2
  ⟨h.length, h.apart, h.leadLow, h.leadHigh, h.low, h.high, fun hle => (normalise_legal hle).1⟩

/-! ### The window of archive bytes (R202) -/

theorem windowOf_toNat (b3 b2 b1 b0 : Byte) :
    (windowOf b3 b2 b1 b0).toNat = ((b3.toNat * 256 + b2.toNat) * 256 + b1.toNat) * 256 + b0.toNat := by
  simp only [windowOf, BitVec.toNat_append, ← Nat.shiftLeft_add_eq_or_of_lt (BitVec.isLt _)]
  simp only [Nat.shiftLeft_eq, Nat.reducePow]

theorem archiveWindow_toNat (z : List Byte) : (archiveWindow z).toNat =
    (((z.getD 0 0).toNat * 256 + (z.getD 1 0).toNat) * 256 + (z.getD 2 0).toNat) * 256 + (z.getD 3 0).toNat :=
  windowOf_toNat _ _ _ _

theorem archiveWindow_cons_toNat (b : Byte) (z : List Byte) :
    (archiveWindow (b :: z)).toNat = b.toNat * 2 ^ 24 + (archiveWindow z).toNat / 256 := by
  have hlast := (z.getD 3 0).isLt
  simp only [archiveWindow_toNat, List.getD_cons_zero, List.getD_cons_succ]
  omega

/-- The bytes FLUSH writes are the window X1. -/
theorem archiveWindow_flushBytes (x : Word) (more : List Byte) : archiveWindow (flushBytes x ++ more) = x := by
  have hx := x.isLt
  rw [← BitVec.toNat_inj, archiveWindow_toNat]
  simp only [flushBytes, List.cons_append, List.getD_cons_zero, List.getD_cons_succ, BitVec.extractLsb'_toNat,
    Nat.shiftRight_eq_div_pow]
  omega

/-- A window that lies between the bounds once the settled bytes are gone lay between them before. -/
theorem settle_window_between {z : List Byte} {n : Nat} {x1 x2 : Word}
    (hlow : (settle n x1 x2).2.1.toNat ≤ (archiveWindow z).toNat)
    (hhigh : (archiveWindow z).toNat ≤ (settle n x1 x2).2.2.toNat) :
    x1.toNat ≤ (archiveWindow ((settle n x1 x2).1 ++ z)).toNat ∧
    (archiveWindow ((settle n x1 x2).1 ++ z)).toNat ≤ x2.toNat := by
  induction n generalizing x1 x2 with
  | zero => exact ⟨hlow, hhigh⟩
  | succ n ih =>
    by_cases htop : topByte x1 = topByte x2
    · rw [settle_of_shared htop] at hlow hhigh ⊢
      obtain ⟨ihlow, ihhigh⟩ := ih hlow hhigh
      have hshiftLow := shiftLow_toNat x1
      have hshiftHigh := shiftHigh_toNat x2
      rw [topByte_eq_iff] at htop
      rw [List.cons_append, archiveWindow_cons_toNat, topByte_toNat]
      omega
    · rw [settle_of_apart htop] at hlow hhigh ⊢
      exact ⟨hlow, hhigh⟩

end Sys2Proof.Machine
end

section
/-! The statements of 41_coder.md on the session commands: START_ENC (R201), START_DEC (R202), FLUSH (R208) and STOP (R209). -/

namespace Sys2Proof.Machine

/-! ### The checks of the session commands -/

theorem expectedError_of_mode {i : Instr} {s : State} (h : s.mode ∉ allowedModes i) : expectedError i s = some .mode :=
  if_pos h

/-- A session command passes every check of R404 but that of its mode. -/
theorem expectedError_session {i : Instr} (hi : i ∈ [Instr.startEnc, .startDec, .flush, .stop]) {s : State}
    (hmode : s.mode ∈ allowedModes i) : expectedError i s = none := by
  rw [expectedError_none_iff]
  refine ⟨hmode, ?_⟩
  simp only [List.mem_cons, List.not_mem_nil, or_false] at hi
  obtain rfl | rfl | rfl | rfl := hi <;> simp [phaseHolds, Instr.operandsLegal, pushedBy, needsCount]

theorem exec_session_of_wrong_mode {i : Instr} {m : Mode} (hi : allowedModes i = [m]) {s : State} (hmode : s.mode ≠ m) :
    exec i s = .next (faulted .mode i s) :=
  exec_of_error (expectedError_of_mode (by simpa [hi] using hmode))

/-- A command that passes its checks and calls for archive bytes that are not there takes nothing. -/
theorem exec_of_waiting {i : Instr} {s : State} (h : expectedError i s = none)
    (hbytes : available (bytesNeeded s i) s = false) : exec i s = .next s := by
  cases i
  case startDec =>
    have hchecks : firstFailure { mode := s.mode == .idle } s = none :=
      (firstFailure_eq_expectedError (mode_beq_eq _ _) rfl rfl rfl rfl).trans h
    rw [bytesNeeded] at hbytes
    simp [exec, execStartDec, runWaiting, hchecks, hbytes]
  case decBit =>
    have hchecks : firstFailure { mode := s.mode == .dec, count := true } s = none :=
      (firstFailure_eq_expectedError (i := .decBit) (mode_beq_eq _ _) rfl rfl rfl rfl).trans h
    rw [bytesNeeded] at hbytes
    simp [exec, execDecBit, runWaiting, hchecks, hbytes]
  all_goals exact absurd (hbytes.symm.trans (available_zero s)) (by decide)

/-- Bytes that are in the FIFO are available, whatever EOS is. -/
theorem available_of_le {n : Nat} {s : State} (h : n ≤ s.ports.archIn.length) : available n s = true := by
  simp [available, h]

/-! ### FLUSH and STOP -/

theorem exec_flush {s : State} (hmode : s.mode = .enc) : exec .flush s = .next (flushEffect (consume 1 s)) :=
  exec_of_ready (expectedError_session (i := .flush) (by simp) (by simp [allowedModes, hmode])) (available_zero s)

theorem exec_stop {s : State} (hmode : s.mode = .dec) : exec .stop s = .next (stopEffect (consume 1 s)) :=
  exec_of_ready (expectedError_session (i := .stop) (by simp) (by simp [allowedModes, hmode])) (available_zero s)

/-- FLUSH appends the four bytes of X1 and counts them. -/
theorem flushEffect_eq (s : State) : flushEffect s = { s with
    outCnt := s.outCnt + 4
    ports := { s.ports with archOut := s.ports.archOut ++ flushBytes s.coder.x1 }
    mode := .idle } := by
  rw [flushEffect, outBytes_eq]; rfl

/-- Settles O16: each command passes its one check in its mode, and its effect is the record the statement writes. -/
theorem flushAndStopEndTheSession : Obligations.FlushAndStopEndTheSession := by
  intro s
  constructor
  · split
    · next hmode => rw [exec_flush hmode, flushEffect_eq]; rfl
    · next hmode => exact exec_session_of_wrong_mode rfl hmode
  · split
    · next hmode => rw [exec_stop hmode]; rfl
    · next hmode => exact exec_session_of_wrong_mode rfl hmode

/-! ### START_ENC -/

theorem exec_startEnc {s : State} (hmode : s.mode = .idle) : exec .startEnc s = .next (startEncEffect (consume 1 s)) :=
  exec_of_ready (expectedError_session (i := .startEnc) (by simp) (by simp [allowedModes, hmode])) (available_zero s)

theorem blendAt_freshMixer {c : Cfg} {j : Nat} (hj : j < c.mxNsel) (m : Mixer) :
    blendAt (freshMixer c m) j = BitVec.ofNat 32 (65536 / m.active.toNat) := by
  simp [blendAt, freshBlend, hj]

theorem weightAt_freshMixer (c : Cfg) (m : Mixer) (j k l : Nat) : weightAt (freshMixer c m) j k l = 0 := rfl

/-- The initial row of the APM is the curve of squash at its 33 points (10_state.md R59). -/
theorem apmAt_freshApm (a : Apm) (x : Nat) {k : Nat} (hk : k < 33) :
    (apmAt (freshApm a) x k).toNat = 16 * squash (((k : Int) - 16) * 128) := by
  have hpoint : (((apmKey x k % 33 : Nat) : Int) * 128 - 2048) = ((k : Int) - 16) * 128 := by
    unfold apmKey; omega
  have hbound := (squash_bounds (((k : Int) - 16) * 128)).2
  simp only [apmAt, freshApm, tableGet_nil, apmInit, hpoint, BitVec.toNat_ofNat]
  omega

theorem laneAt_freshCm (c : Cfg) (m : ContextMap) (l : Nat) : laneAt (freshCm c m) l = freshLane := by
  simp only [laneAt, freshCm_lanes, List.getD_eq_getElem?_getD, List.getElem?_replicate]
  split <;> rfl

theorem instAt_freshForest (c : Cfg) (f : Forest) {i : Nat} (hi : i < dmcN) : instAt (freshForest c f) i = freshInst c i := by
  simp [instAt, freshForest, List.getD_eq_getElem?_getD, hi]

/-- Settles O14: MODEL_INIT unit by unit; each table it empties reads as its initial value. -/
theorem startEncInitialisesTheModel : Obligations.StartEncInitialisesTheModel :=
  ⟨fun _ hmode => exec_session_of_wrong_mode rfl hmode, fun s hmode =>
    ⟨startEncEffect (consume 1 s), exec_startEnc hmode, rfl, fun _ hj => blendAt_freshMixer hj _,
      weightAt_freshMixer _ _, fun x _ hk => apmAt_freshApm _ x hk, fun l _ => laneAt_freshCm _ _ l,
      fun _ _ => ⟨rfl, rfl⟩, fun _ _ => ⟨rfl, rfl⟩, by simp [startEncEffect, freshForest],
      fun _ hi => instAt_freshForest _ _ hi⟩⟩

/-! ### START_DEC -/

/-- A decoder shift moves the window of an archive by one byte; the byte after it is the fifth. -/
theorem shiftLeft_archiveWindow (z : List Byte) :
    (archiveWindow z <<< 8) ||| ((z.drop 4).headD 0).setWidth 32 = archiveWindow (z.drop 1) := by
  have hnext : (z.drop 4).headD 0 = z.getD 4 0 := by simp [List.headD_eq_head?_getD, List.head?_drop]
  have hbyte : ((z.getD 4 0).setWidth 32).toNat = (z.getD 4 0).toNat := BitVec.toNat_setWidth_of_le (by decide)
  have h1 := (z.getD 1 0).isLt
  have h2 := (z.getD 2 0).isLt
  have h3 := (z.getD 3 0).isLt
  have h4 := (z.getD 4 0).isLt
  rw [hnext, ← BitVec.toNat_inj, shiftLeft_or_toNat _ (by omega), hbyte, archiveWindow_toNat, archiveWindow_toNat]
  simp only [List.getD_eq_getElem?_getD, List.getElem?_drop, Nat.reduceAdd] at *
  omega

/-- Decoder shifts move the window along the archive whose bytes after the window are in the FIFO. -/
theorem shiftInBytes_window {z : List Byte} (n : Nat) {s : State} (hx : s.coder.x = archiveWindow z)
    (hin : s.ports.archIn = z.drop 4) : (shiftInBytes n s).coder.x = archiveWindow (z.drop n) := by
  induction n generalizing z s with
  | zero => exact hx
  | succ n ih =>
    have hnext := ih (z := z.drop 1) (s := shiftInByte s) ?_ ?_
    · rw [shiftInBytes, hnext, List.drop_drop, Nat.add_comm]
    · rw [shiftInByte_eq, ← shiftLeft_archiveWindow, hx, hin]
    · rw [shiftInByte_eq, hin, List.drop_drop, List.drop_drop]

/-- START_DEC is START_ENC but for the mode, the window and the bytes taken for it. -/
theorem startDecEffect_eq (s : State) : startDecEffect s = { startEncEffect s with
    mode := .dec
    coder := { freshCoder with x := archiveWindow s.ports.archIn }
    inCnt := BitVec.ofNat 32 (min 4 s.ports.archIn.length)
    ports := { s.ports with archIn := s.ports.archIn.drop 4 } } := by
  have hcleared : archiveWindow ([0, 0, 0, 0] ++ s.ports.archIn) = 0 := show windowOf 0 0 0 0 = 0 by decide
  have hwindow := shiftInBytes_window 4 (s := modelInit s) hcleared.symm rfl
  rw [startDecEffect, shiftInBytes_eq, hwindow]
  simp [startEncEffect]

theorem exec_startDec {s : State} (hmode : s.mode = .idle) (hbytes : available 4 s = true) :
    exec .startDec s = .next (startDecEffect (consume 1 s)) :=
  exec_of_ready (expectedError_session (i := .startDec) (by simp) (by simp [allowedModes, hmode])) hbytes

/-- Settles O15: four decoder shifts bring the first four bytes into the cleared window, or START_DEC waits for them. -/
theorem startDecReadsTheWindow : Obligations.StartDecReadsTheWindow := by
  refine ⟨fun _ hmode => exec_session_of_wrong_mode rfl hmode, fun s hmode => ⟨fun hbytes => ?_, fun hbytes => ?_⟩⟩
  · exact ⟨_, _, exec_startDec hmode hbytes, exec_startEnc hmode, startDecEffect_eq _⟩
  · exact exec_of_waiting (expectedError_session (i := .startDec) (by simp) (by simp [allowedModes, hmode])) hbytes

end Sys2Proof.Machine
end

section
/-! The statements of 41_coder.md on ENC_BIT (R206) and DEC_BIT (R207): what each codes, and what both train
(40_pipeline.md R173 to R177). -/

namespace Sys2Proof.Machine

/-! ### C0 with the bit (R175) -/

theorem pushBit_eq (c0 : BitVec 9) (y : Bool) : pushBit c0 y = BitVec.ofNat 9 (2 * c0.toNat + bitNat y) := by
  have hy : (BitVec.ofNat 9 (bitNat y)).toNat = bitNat y := by cases y <;> rfl
  have hb := bitNat_le y
  rw [← BitVec.toNat_inj, pushBit, toNat_shiftLeft_or (by omega) _ _ (by omega), hy, BitVec.toNat_ofNat]
  omega

/-- Taking the leading 1 away is no matter to the eight bits below it. -/
theorem completedByte_eq (c0 : BitVec 9) (y : Bool) :
    (pushBit c0 y - 256).setWidth 8 = BitVec.ofNat 8 (2 * c0.toNat + bitNat y) := by
  rw [pushBit_eq, ← BitVec.toNat_inj, BitVec.toNat_setWidth, BitVec.toNat_sub, BitVec.toNat_ofNat, BitVec.toNat_ofNat]
  simp only [BitVec.reduceToNat]
  omega

/-! ### What both commands train -/

/-- The DMC forest after a coded bit: DMC_UPDATE of each predictor, and DMC_BYTE_RESET when it was the eighth. -/
def forestTrained (s : State) (y : Bool) : Forest :=
  { s.dmc with insts := s.dmc.insts.mapIdx fun i d =>
      if s.bpos = 7 then dmcByteReset s.cfg (BitVec.ofNat 8 (2 * s.c0.toNat + bitNat y)) i (dmcUpdate s.cfg y i d)
      else dmcUpdate s.cfg y i d }

theorem afterCode_dmc (pr : Prediction) (y : Bool) (s : State) : (afterCode pr y s).dmc = forestTrained s y := by
  have h7 : s.bpos.toNat = 7 ↔ s.bpos = 7 := BitVec.toNat_inj (y := 7)
  by_cases hlast : s.bpos = 7
  · have hdmc : (afterCode pr y s).dmc =
        dmcBoundary s.cfg ((pushBit s.c0 y - 256).setWidth 8) (dmcUpdateAll s.cfg y s.dmc) := by
      rw [afterCode, advance_of_last (s := update pr y (setLastP pr s)) (h7.mpr hlast)]; rfl
    simp only [hdmc, dmcBoundary, dmcUpdateAll, mapFrom_zero, List.mapIdx_mapIdx, completedByte_eq, forestTrained, hlast,
      if_true, Function.comp_def]
  · have hdmc : (afterCode pr y s).dmc = dmcUpdateAll s.cfg y s.dmc := by
      rw [afterCode, advance_of_inside (s := update pr y (setLastP pr s)) (mt h7.mp hlast)]; rfl
    simp only [hdmc, dmcUpdateAll, mapFrom_zero, forestTrained, hlast, if_false]

/-- Past the position, the context map and the forest, STEP writes LAST_P, the mixer, the APM and BITCNT. -/
theorem afterCode_fields (pr : Prediction) (y : Bool) (s : State) :
    afterCode pr y s = { s with
      bpos := (afterCode pr y s).bpos, c0 := (afterCode pr y s).c0, c1 := (afterCode pr y s).c1
      cm := (afterCode pr y s).cm, dmc := (afterCode pr y s).dmc
      bitCnt := s.bitCnt + 1, coder := { s.coder with lastP := BitVec.ofNat 12 pr.pFinal }
      mixer := trainMixer pr y s.mixer, apm := trainApm pr y s.apm } := by
  rw [afterCode, advance_fields]; rfl

/-- What ENC_BIT and DEC_BIT of the bit `y` do alike, from `s` to `t`. -/
structure BitTrains (y : Bool) (s t : State) : Prop where
  lastP : t.coder.lastP.toNat = (predictOf s).pFinal
  bitCnt : t.bitCnt = s.bitCnt + 1
  mixer : t.mixer = trainMixer (predictOf s) y s.mixer
  apm : t.apm = trainApm (predictOf s) y s.apm
  closed : s.bpos = 7 → t.cm = lanesClosed s.cfg (BitVec.ofNat 8 (2 * s.c0.toNat + bitNat y)) (lanesTrained s y)
  resolved : s.bpos = 1 ∨ s.bpos = 4 →
    t.cm = lanesResolved s.cfg (BitVec.ofNat 9 (2 * s.c0.toNat + bitNat y)) s.cfg.cmLanes (lanesTrained s y)
  trained : s.bpos ≠ 7 → s.bpos ≠ 1 → s.bpos ≠ 4 → t.cm = lanesTrained s y
  dmc : t.dmc = forestTrained s y
  cfg : t.cfg = s.cfg
  mode : t.mode = s.mode
  halt : t.halt = s.halt
  errCode : t.errCode = s.errCode
  errCmd : t.errCmd = s.errCmd

theorem afterCode_trains (y : Bool) (s : State) : BitTrains y s (afterCode (predictOf s) y s) := by
  have hp : (predictOf s).pFinal ≤ 4094 := (predict_pFinal_bounds _ _).2
  have hadvances := afterCode_advances (predictOf s) y s
  have hdmc := afterCode_dmc (predictOf s) y s
  refine ⟨?lastP, ?_, ?_, ?_, fun hlast => ?closed, fun h => ?resolved, hadvances.trained, hdmc, ?_, ?_, ?_, ?_, ?_⟩
  case lastP =>
    rw [afterCode_coder, BitVec.toNat_ofNat]
    omega
  case closed =>
    obtain ⟨-, -, -, hcm⟩ := hadvances.boundary hlast
    rw [hcm, completedByte_eq]
  case resolved => rw [hadvances.resolved h, pushBit_eq]
  all_goals rw [afterCode_fields]

/-- CODE and the command port are no part of what is trained, nor read by it. -/
theorem BitTrains.of_coded {y : Bool} {s t : State} {x1 x2 x : Word} {outCnt inCnt : Word} {p : Ports}
    (h : BitTrains y { s with coder := ⟨x1, x2, x, s.coder.lastP⟩, outCnt := outCnt, inCnt := inCnt, ports := p } t) :
    BitTrains y s t :=
  ⟨h.lastP, h.bitCnt, h.mixer, h.apm, h.closed, h.resolved, h.trained, h.dmc, h.cfg, h.mode, h.halt, h.errCode, h.errCmd⟩

theorem BitTrains.result {y : Bool} {s t : State} (h : BitTrains y s t) (w : Word) : BitTrains y s (result w t) :=
  ⟨h.lastP, h.bitCnt, h.mixer, h.apm, h.closed, h.resolved, h.trained, h.dmc, h.cfg, h.mode, h.halt, h.errCode, h.errCmd⟩

theorem stepEnc_trains (y : Bool) (s : State) : BitTrains y s (stepEnc y s) := by
  have h := afterCode_trains y (codeEnc (predictOf s).pFinal y s)
  rw [codeEnc_fields] at h
  rw [stepEnc, codeEnc_fields]
  exact h.of_coded

theorem stepDec_trains (s : State) : BitTrains (decBitOf s) s (stepDec s) := by
  have h := afterCode_trains (decBitOf s) (codeDec (predictOf s).pFinal (decBitOf s) s)
  rw [codeDec_fields] at h
  rw [stepDec, codeDec_fields]
  exact h.of_coded

/-! ### ENC_BIT -/

/-- The bytes and the bounds of coding the bit `y` at p_final. -/
def intervalOf (y : Bool) (s : State) : List Byte × Word × Word := codeInterval y (predictOf s).pFinal s.coder

theorem stepEnc_coder (y : Bool) (s : State) : (stepEnc y s).coder =
    ⟨(intervalOf y s).2.1, (intervalOf y s).2.2, s.coder.x, BitVec.ofNat 12 (predictOf s).pFinal⟩ := by
  rw [stepEnc, afterCode_coder, codeEnc_fields]; rfl

/-- Coding appends and counts the settled bytes; it reads no archive byte. -/
theorem stepEnc_ports (y : Bool) (s : State) :
    (stepEnc y s).ports = { s.ports with archOut := s.ports.archOut ++ (intervalOf y s).1 } ∧
    (stepEnc y s).outCnt = s.outCnt + BitVec.ofNat 32 (intervalOf y s).1.length ∧ (stepEnc y s).inCnt = s.inCnt := by
  rw [stepEnc, afterCode_fields, codeEnc, outBytes_eq]
  exact ⟨rfl, rfl, rfl⟩

theorem exec_encBit {imm : Half} {s : State} (hmode : s.mode = .enc) (himm : imm.toNat ≤ 1)
    (hcount : s.mixer.count = s.mixer.n) : exec (.encBit imm) s = .next (stepEnc (immBit imm) (consume 1 s)) :=
  exec_of_ready ((expectedError_encBit_iff hmode himm).mpr (congrArg _ hcount)) (available_zero s)

/-- Settles O17: CODE writes the interval and the archive, and what follows it is what DEC_BIT trains too. -/
theorem encBitCodesAndTrains : Obligations.EncBitCodesAndTrains := by
  intro imm s hmode himm hcount
  have h := stepEnc_trains (immBit imm) (consume 1 s)
  have hcoder := stepEnc_coder (immBit imm) (consume 1 s)
  obtain ⟨hports, hout, hin⟩ := stepEnc_ports (immBit imm) (consume 1 s)
  refine ⟨_, exec_encBit hmode himm hcount, ?_, ?_, ?_, h.lastP, hports, hout, hin, h.bitCnt, h.mixer, h.apm, h.closed,
    h.resolved, h.trained, h.dmc, h.cfg, h.mode.trans hmode, h.halt, h.errCode, h.errCmd⟩ <;> rw [hcoder] <;> rfl

/-! ### DEC_BIT -/

/-- The window after decoder shifts, byte by byte. -/
theorem shiftInBytes_x (n : Nat) (s : State) : (shiftInBytes n s).coder.x = (List.range n).foldl
    (fun (x : Word) (k : Nat) => (x <<< 8) ||| (s.ports.archIn.getD k 0).setWidth 32) s.coder.x := by
  induction n generalizing s with
  | zero => rfl
  | succ n ih =>
    rw [shiftInBytes, ih, shiftInByte_eq, List.range_succ_eq_map, List.foldl_cons, List.foldl_map]
    simp [List.headD_eq_head?_getD, List.head?_eq_getElem?]

theorem stepDec_coder (s : State) : (stepDec s).coder =
    ⟨(intervalOf (decBitOf s) s).2.1, (intervalOf (decBitOf s) s).2.2,
      (shiftInBytes (intervalOf (decBitOf s) s).1.length s).coder.x, BitVec.ofNat 12 (predictOf s).pFinal⟩ := by
  rw [stepDec, afterCode_coder, codeDec, shiftInBytes_eq]; rfl

/-- Decoding takes and counts a byte for each settled one; it writes no archive byte. -/
theorem stepDec_ports (s : State) :
    (stepDec s).ports = { s.ports with archIn := s.ports.archIn.drop (intervalOf (decBitOf s) s).1.length } ∧
    (stepDec s).inCnt = s.inCnt + BitVec.ofNat 32 (min (intervalOf (decBitOf s) s).1.length s.ports.archIn.length) ∧
    (stepDec s).outCnt = s.outCnt := by
  rw [stepDec, afterCode_fields, codeDec, shiftInBytes_eq]
  exact ⟨rfl, rfl, rfl⟩

theorem decBitEffect_ports (s : State) : (decBitEffect s).ports = { s.ports with
    archIn := s.ports.archIn.drop (intervalOf (decBitOf s) s).1.length
    result := s.ports.result ++ [if decBitOf s then 1 else 0] } := by
  have hword : BitVec.ofNat 32 (bitNat (decBitOf s)) = if decBitOf s then 1 else 0 := by cases decBitOf s <;> rfl
  rw [decBitEffect, result_ports, (stepDec_ports s).1, hword]

theorem expectedError_decBit {s : State} (hmode : s.mode = .dec) (hcount : s.mixer.count = s.mixer.n) :
    expectedError .decBit s = none := by
  simp [expectedError_none_iff, hmode, hcount, allowedModes, phaseHolds, Instr.operandsLegal, pushedBy]

theorem exec_decBit {s : State} (hmode : s.mode = .dec) (hcount : s.mixer.count = s.mixer.n)
    (hbytes : available (intervalOf (decBitOf s) s).1.length s = true) :
    exec .decBit s = .next (decBitEffect (consume 1 s)) :=
  exec_of_ready (expectedError_decBit hmode hcount) hbytes

/-- Settles O18: CODE shifts the window by the settled bytes, and what follows it is what ENC_BIT trains too. -/
theorem decBitDecodesAndTrains : Obligations.DecBitDecodesAndTrains := by
  intro s hmode hcount pr xmid y b r c0
  refine ⟨fun hbytes => ?_, fun hbytes => exec_of_waiting (expectedError_decBit hmode hcount) hbytes⟩
  have h := (stepDec_trains (consume 1 s)).result (BitVec.ofNat 32 (bitNat y))
  have hcoder := stepDec_coder (consume 1 s)
  have hports := decBitEffect_ports (consume 1 s)
  obtain ⟨-, hin, hout⟩ := stepDec_ports (consume 1 s)
  rw [shiftInBytes_x] at hcoder
  refine ⟨_, exec_decBit hmode hcount hbytes, ?_, ?_, h.lastP, ?_, hports, hin, hout, h.bitCnt, h.mixer, h.apm, h.closed,
    h.resolved, h.trained, h.dmc, h.cfg, h.mode.trans hmode, h.halt, h.errCode, h.errCmd⟩ <;>
    rw [decBitEffect, result_coder, hcoder] <;> rfl

end Sys2Proof.Machine
end

section
/-! The statements of 41_coder.md R210: the decoder follows the encoder, over one coded bit and over a session. -/

namespace Sys2Proof.Machine

/-! ### States of the same model -/

/-- The state with everything at its reset value that `SameModel` does not compare. -/
def modelOf (s : State) : State :=
  { s with
    mode := .idle, halt := false, errCode := .none, errCmd := 0, outCnt := 0, inCnt := 0
    coder := { s.coder with x := 0 }, ports := emptyPorts }

theorem sameModel_iff (s t : State) : SameModel s t ↔ modelOf s = modelOf t := by
  constructor
  · rintro ⟨hcfg, hbpos, hc0, hc1, hbitCnt, hx1, hx2, hlastP, hmixer, hapm, hcm, hdmc⟩
    simp only [modelOf, hcfg, hbpos, hc0, hc1, hbitCnt, hx1, hx2, hlastP, hmixer, hapm, hcm, hdmc]
  · intro h
    exact ⟨congrArg (·.cfg) h, congrArg (·.bpos) h, congrArg (·.c0) h, congrArg (·.c1) h, congrArg (·.bitCnt) h,
      congrArg (·.coder.x1) h, congrArg (·.coder.x2) h, congrArg (·.coder.lastP) h, congrArg (·.mixer) h,
      congrArg (·.apm) h, congrArg (·.cm) h, congrArg (·.dmc) h⟩

/-- An operation whose outcome, as far as it is compared, depends on what is compared alone. -/
theorem SameModel.map {f : State → State} (hf : ∀ s, modelOf (f s) = modelOf (f (modelOf s))) {s t : State}
    (h : SameModel s t) : SameModel (f s) (f t) := by
  rw [sameModel_iff] at h ⊢
  rw [hf s, h, ← hf t]

/-- States that differ from two of the same model only in what is not compared. -/
theorem SameModel.congr {s t s' t' : State} (h : SameModel s t) (hs : modelOf s = modelOf s') (ht : modelOf t = modelOf t') :
    SameModel s' t' :=
  (sameModel_iff s' t').mpr (hs.symm.trans (((sameModel_iff s t).mp h).trans ht))

theorem SameModel.consume {s t : State} (h : SameModel s t) (n k : Nat) : SameModel (consume n s) (consume k t) :=
  h.congr rfl rfl

theorem SameModel.result {s t : State} (h : SameModel s t) (w : Word) : SameModel s (result w t) := h.congr rfl rfl

theorem modelOf_afterCode (pr : Prediction) (y : Bool) (s : State) :
    modelOf (afterCode pr y s) = modelOf (afterCode pr y (modelOf s)) := by
  by_cases hlast : s.bpos.toNat = 7
  · rw [afterCode, advance_of_last (s := update pr y (setLastP pr s)) hlast, afterCode,
      advance_of_last (s := update pr y (setLastP pr (modelOf s))) hlast]
    rfl
  · rw [afterCode, advance_of_inside (s := update pr y (setLastP pr s)) hlast, afterCode,
      advance_of_inside (s := update pr y (setLastP pr (modelOf s))) hlast]
    rfl

section
variable {s t : State} (h : SameModel s t)
include h

theorem SameModel.predictOf_eq : predictOf s = predictOf t := by rw [predictOf, predictOf, h.mixer, h.apm]

theorem SameModel.intervalOf_eq (y : Bool) : intervalOf y s = intervalOf y t := by
  simp only [intervalOf, codeInterval, h.predictOf_eq, h.x1, h.x2]

/-- The window and the archive, which the two CODEs write, are not compared. -/
theorem SameModel.stepEnc_stepDec : SameModel (stepEnc (decBitOf t) s) (stepDec t) := by
  have hinterval := h.intervalOf_eq (decBitOf t)
  rw [stepEnc, stepDec, h.predictOf_eq]
  refine SameModel.map (modelOf_afterCode _ _) ?_
  rw [intervalOf, h.predictOf_eq, intervalOf] at hinterval
  rw [codeEnc_fields, codeDec_fields, hinterval]
  exact ⟨h.cfg, h.bpos, h.c0, h.c1, h.bitCnt, rfl, rfl, h.lastP, h.mixer, h.apm, h.cm, h.dmc⟩

/-- Past its mode, R404 checks nothing of a command that is not compared. -/
theorem SameModel.expectedError_none {i : Instr} (hmode : t.mode ∈ allowedModes i) (hs : expectedError i s = none) :
    expectedError i t = none := by
  rw [expectedError_none_iff] at hs ⊢
  obtain ⟨-, hphase, hlegal, hroom, hcount⟩ := hs
  have hphases : phaseHolds s i = phaseHolds t i := by unfold phaseHolds; rw [h.bpos, h.mixer]
  exact ⟨hmode, hphases ▸ hphase, h.cfg ▸ hlegal, h.cfg ▸ h.mixer ▸ hroom, h.mixer ▸ hcount⟩

end

/-! ### The window in the interval (R203, R204) -/

/-- Either part of an interval lies in it. -/
theorem narrow_within {x1 x2 xmid : Word} (hlow : x1.toNat ≤ xmid.toNat) (hhigh : xmid.toNat < x2.toNat) (y : Bool) :
    x1.toNat ≤ (narrow y x1 x2 xmid).1.toNat ∧ (narrow y x1 x2 xmid).2.toNat ≤ x2.toNat := by
  cases y
  · exact ⟨by rw [narrow_false_low hhigh]; omega, le_rfl⟩
  · exact ⟨le_rfl, hhigh.le⟩

/-- The part a word lies in tells the bit. -/
theorem le_xmid_of_narrow {x1 x2 xmid w : Word} (hhigh : xmid.toNat < x2.toNat) {y : Bool}
    (hw : (narrow y x1 x2 xmid).1.toNat ≤ w.toNat ∧ w.toNat ≤ (narrow y x1 x2 xmid).2.toNat) :
    decide (w.toNat ≤ xmid.toNat) = y := by
  cases y
  · rw [narrow_false_low hhigh] at hw
    exact decide_eq_false (by omega)
  · exact decide_eq_true hw.2

section
variable {y : Bool} {e : State} {z : List Byte} (hordered : e.coder.x1.toNat < e.coder.x2.toNat)
  (hlow : (intervalOf y e).2.1.toNat ≤ (archiveWindow z).toNat)
  (hhigh : (archiveWindow z).toNat ≤ (intervalOf y e).2.2.toNat)
include hordered hlow hhigh

/-- An archive whose window lies in the new interval after the settled bytes lies with them in the interval before. -/
theorem window_before_bit :
    e.coder.x1.toNat ≤ (archiveWindow ((intervalOf y e).1 ++ z)).toNat ∧
    (archiveWindow ((intervalOf y e).1 ++ z)).toNat ≤ e.coder.x2.toNat := by
  have ⟨hmidLow, hmidHigh⟩ := splitPoint_bounds hordered (predict_pFinal_bounds e.mixer e.apm).2
  have ⟨hpartLow, hpartHigh⟩ := narrow_within hmidLow hmidHigh y
  have ⟨hwLow, hwHigh⟩ := settle_window_between hlow hhigh
  exact ⟨hpartLow.trans hwLow, hwHigh.trans hpartHigh⟩

variable {d : State} (hsame : SameModel e d) (hx : d.coder.x = archiveWindow ((intervalOf y e).1 ++ z))
include hsame hx

/-- A decoder whose window is that of such an archive decodes the encoder's bit. -/
theorem decBitOf_of_window : decBitOf d = y := by
  have ⟨_, hmidHigh⟩ := splitPoint_bounds hordered (predict_pFinal_bounds e.mixer e.apm).2
  have hbit := le_xmid_of_narrow hmidHigh (settle_window_between hlow hhigh)
  rw [decBitOf, decodedBit, hx, ← hsame.x1, ← hsame.x2, ← hsame.predictOf_eq]
  exact hbit

variable (hin : d.ports.archIn = ((intervalOf y e).1 ++ z).drop 4)
include hin

theorem available_decBit (hz : 4 ≤ z.length) : available (bytesNeeded d .decBit) d = true := by
  have hbit := decBitOf_of_window hordered hlow hhigh hsame hx
  have hneed : bytesNeeded d .decBit = (intervalOf y e).1.length := by
    rw [hsame.intervalOf_eq, ← hbit]; rfl
  have hlength : (intervalOf y e).1.length ≤ d.ports.archIn.length := by
    rw [hin, List.length_drop, List.length_append]; omega
  rw [hneed]
  exact available_of_le hlength

/-- DEC_BIT takes the settled bytes off the archive, returns the encoder's bit and trains as the encoder does. -/
theorem decBitEffect_follows :
    SameModel (stepEnc y e) (decBitEffect d) ∧ (decBitEffect d).coder.x = archiveWindow z ∧
    (decBitEffect d).ports.archIn = z.drop 4 ∧
    (decBitEffect d).ports.result = d.ports.result ++ [if y then 1 else 0] := by
  have hbit := decBitOf_of_window hordered hlow hhigh hsame hx
  have hmodel := hsame.stepEnc_stepDec
  have hports := decBitEffect_ports d
  have hcoder := stepDec_coder d
  rw [hbit] at hmodel
  rw [hbit, ← hsame.intervalOf_eq] at hports hcoder
  rw [shiftInBytes_window _ hx hin, List.drop_left] at hcoder
  refine ⟨hmodel.result _, congrArg (·.x) hcoder, ?_, congrArg (·.result) hports⟩
  rw [hports, hin, List.drop_drop, Nat.add_comm, ← List.drop_drop, List.drop_left]

end

theorem bit_cases {imm : Half} (h : imm.toNat ≤ 1) : imm = 0 ∨ imm = 1 := by
  simp only [← BitVec.toNat_inj, BitVec.reduceToNat]
  omega

/-- Settles O21: the window after the step lies in the new interval, so the window before it tells the bit. -/
theorem decoderFollowsEncoderStep : Obligations.DecoderFollowsEncoderStep := by
  intro sE sD tE imm z o hsame hencMode hdecMode himm hcount hordered hexec hout htake hlength hx hin hlow hhigh
  rw [exec_encBit hencMode himm hcount] at hexec
  obtain rfl := Host.Outcome.next.inj hexec
  obtain ⟨hports, -, -⟩ := stepEnc_ports (immBit imm) (consume 1 sE)
  have hcoder := stepEnc_coder (immBit imm) (consume 1 sE)
  have ho : (intervalOf (immBit imm) (consume 1 sE)).1 = o := by
    rw [hports] at hout
    exact List.append_cancel_left hout
  have hz : z = (intervalOf (immBit imm) (consume 1 sE)).1 ++ z.drop o.length := by
    rw [ho]
    conv_lhs => rw [← List.take_append_drop o.length z, htake]
  have hword : (if immBit imm then 1 else 0 : Word) = BitVec.ofNat 32 imm.toNat := by
    obtain rfl | rfl := bit_cases himm <;> rfl
  rw [hcoder] at hlow hhigh
  rw [hz] at hx hin
  have hdec := hsame.consume 1 1
  obtain ⟨hmodel, hwindow, hfifo, hresult⟩ :=
    decBitEffect_follows (e := consume 1 sE) (d := consume 1 sD) hordered hlow hhigh hdec hx hin
  have hbytes := available_decBit (e := consume 1 sE) (d := consume 1 sD) hordered hlow hhigh hdec hx hin
    (by rw [List.length_drop]; omega)
  have hdecCount : sD.mixer.count = sD.mixer.n := hsame.mixer ▸ hcount
  refine ⟨_, exec_decBit hdecMode hdecCount hbytes, ?_, hmodel, hwindow, ?_⟩
  · rw [← hword]
    exact hresult
  · rw [hfifo, List.drop_drop, Nat.add_comm]

end Sys2Proof.Machine
end

section
/-! The statement of 41_coder.md R210, "decode(encode(B)) == B", over a whole session from hardware reset. -/

namespace Sys2Proof.Machine

/-! ### Runs of commands -/

theorem runAll_append (l l' : List Instr) (s : State) : runAll (l ++ l') s = (runAll l s).bind (runAll l') := by
  induction l generalizing s with
  | nil => rfl
  | cons i l ih =>
    obtain ⟨t, ht⟩ := exec_has_next i s
    rw [List.cons_append, runAll, runAll, ht]
    dsimp only
    split
    · rfl
    · exact ih t

/-- A run that does not fault ran its first command, which waited for nothing. -/
theorem ready_of_runAll_cons {i : Instr} {l : List Instr} {s s' : State}
    (hbytes : available (bytesNeeded s i) s = true) (h : runAll (i :: l) s = some s') :
    expectedError i s = none ∧ runAll l (effectOf i (consume i.words s)) = some s' := by
  cases he : expectedError i s with
  | some code => simp [runAll, exec_of_error he, faulted] at h
  | none =>
    simp only [runAll, exec_of_ready he hbytes] at h
    split at h
    · cases h
    · exact ⟨rfl, h⟩

theorem encBit_of_runAll_cons {imm : Half} {l : List Instr} {s s' : State} (h : runAll (.encBit imm :: l) s = some s') :
    expectedError (.encBit imm) s = none ∧ runAll l (stepEnc (immBit imm) (consume 1 s)) = some s' :=
  ready_of_runAll_cons (i := .encBit imm) (available_zero s) h

theorem flush_of_runAll {s s' : State} (h : runAll [.flush] s = some s') : s' = flushEffect (consume 1 s) :=
  have ⟨_, hend⟩ := ready_of_runAll_cons (i := .flush) (available_zero s) h
  (Option.some.inj hend).symm

theorem runAll_cons_of_ready {i : Instr} {s : State} (hh : s.halt = false) (h : expectedError i s = none)
    (hbytes : available (bytesNeeded s i) s = true) (l : List Instr) :
    runAll (i :: l) s = runAll l (effectOf i (consume i.words s)) := by
  simp [runAll, exec_of_ready h hbytes, hh]

/-! ### The commands the decoder's host repeats as they are -/

/-- What one command, or a run of them, leaves alone of the coder and its ports. -/
structure CoderKept (s t : State) : Prop where
  mode : t.mode = s.mode
  halt : t.halt = s.halt
  coder : t.coder = s.coder
  archIn : t.ports.archIn = s.ports.archIn
  archOut : t.ports.archOut = s.ports.archOut
  result : t.ports.result = s.ports.result

theorem CoderKept.refl (s : State) : CoderKept s s := ⟨rfl, rfl, rfl, rfl, rfl, rfl⟩

theorem CoderKept.trans {s t u : State} (h : CoderKept s t) (h' : CoderKept t u) : CoderKept s u :=
  ⟨h'.mode.trans h.mode, h'.halt.trans h.halt, h'.coder.trans h.coder, h'.archIn.trans h.archIn,
    h'.archOut.trans h.archOut, h'.result.trans h.result⟩

/-- A command that does not code: it writes units of the model alone, by what `SameModel` compares, and calls for no byte. -/
structure CodesNothing (i : Instr) : Prop where
  mirrored : mirrored i = i
  bits : ∀ l, codedBits (i :: l) = codedBits l
  modes : .enc ∈ allowedModes i → .dec ∈ allowedModes i
  bytes : ∀ s, bytesNeeded s i = 0
  kept : ∀ s n, CoderKept s (effectOf i (consume n s))
  model : ∀ s, modelOf (effectOf i s) = modelOf (effectOf i (modelOf s))

theorem modelCommand_cases {i : Instr} (hi : isModelCommand i = true) : (∃ imm, i = .encBit imm) ∨ CodesNothing i := by
  cases i
  case encBit imm => exact .inl ⟨imm, rfl⟩
  case nop | startEnc | startDec | flush | stop | decBit | peekP | readReg | bhQuery => exact absurd hi Bool.false_ne_true
  all_goals exact .inr ⟨rfl, fun _ => rfl, by simp [allowedModes], fun _ => rfl,
    fun _ _ => ⟨rfl, rfl, rfl, rfl, rfl, rfl⟩, fun _ => rfl⟩

section
variable {i : Instr} (hi : CodesNothing i) {s t : State}
include hi

theorem CodesNothing.available : available (bytesNeeded s i) s = true := by
  rw [hi.bytes]
  exact available_zero s

theorem CodesNothing.sameModel (h : SameModel s t) (n : Nat) :
    SameModel (effectOf i (consume n s)) (effectOf i (consume n t)) :=
  (h.consume n n).map hi.model

/-- Such a command runs in the second of two states of the same model when it ran in the first. -/
theorem CodesNothing.runs (h : SameModel s t) (hmode : t.mode ∈ allowedModes i) (hh : t.halt = false)
    (hs : expectedError i s = none) (l : List Instr) : runAll (i :: l) t = runAll l (effectOf i (consume i.words t)) :=
  runAll_cons_of_ready hh (h.expectedError_none hmode hs) hi.available l

end

/-! ### The control commands before the session -/

/-- Control commands in IDLE that run from one of two states of the same model run from the other. -/
theorem runAll_controls {l : List Instr} (hl : l.all isModelCommand = true) {e d e' : State} (hsame : SameModel e d)
    (he : e.mode = .idle) (hd : d.mode = .idle) (hh : d.halt = false) (h : runAll l e = some e') :
    ∃ d', runAll l d = some d' ∧ SameModel e' d' ∧ CoderKept e e' ∧ CoderKept d d' := by
  induction l generalizing e d with
  | nil =>
    obtain rfl := Option.some.inj h
    exact ⟨d, rfl, hsame, .refl e, .refl d⟩
  | cons i l ih =>
    rw [List.all_cons, Bool.and_eq_true] at hl
    obtain ⟨imm, rfl⟩ | hi := modelCommand_cases hl.1
    · obtain ⟨hnone, -⟩ := encBit_of_runAll_cons h
      have hmode := ((expectedError_none_iff _ e).mp hnone).1
      rw [he] at hmode
      exact absurd hmode (by simp [allowedModes])
    · obtain ⟨hnone, hrest⟩ := ready_of_runAll_cons hi.available h
      have hmode : d.mode ∈ allowedModes i := hd ▸ he ▸ ((expectedError_none_iff i e).mp hnone).1
      have hkeptE := hi.kept e i.words
      have hkeptD := hi.kept d i.words
      obtain ⟨d', hrun, hsame', hkeptE', hkeptD'⟩ := ih hl.2 (hi.sameModel hsame i.words) (hkeptE.mode.trans he)
        (hkeptD.mode.trans hd) (hkeptD.halt.trans hh) hrest
      exact ⟨d', (hi.runs hsame hmode hh hnone l).trans hrun, hsame', hkeptE.trans hkeptE', hkeptD.trans hkeptD'⟩

/-! ### The encoder's session -/

theorem stepEnc_ordered {e : State} (h : e.coder.x1.toNat < e.coder.x2.toNat) (y : Bool) :
    (stepEnc y e).coder.x1.toNat < (stepEnc y e).coder.x2.toNat := by
  rw [stepEnc_coder]
  exact (codeInterval_legal h (predict_pFinal_bounds e.mixer e.apm).2 y).1

/-- `w` is an archive from `e` on: whatever follows it, its window lies in the interval. -/
structure ArchiveOf (e : State) (w : List Byte) : Prop where
  length : 4 ≤ w.length
  low : ∀ more, e.coder.x1.toNat ≤ (archiveWindow (w ++ more)).toNat
  high : ∀ more, (archiveWindow (w ++ more)).toNat ≤ e.coder.x2.toNat

theorem ArchiveOf.flush {e : State} (h : e.coder.x1.toNat < e.coder.x2.toNat) : ArchiveOf e (flushBytes e.coder.x1) where
  length := le_rfl
  low more := by rw [archiveWindow_flushBytes]
  high more := by rw [archiveWindow_flushBytes]; exact h.le

theorem ArchiveOf.bit {e : State} {y : Bool} {w : List Byte} (hordered : e.coder.x1.toNat < e.coder.x2.toNat)
    (h : ArchiveOf (stepEnc y e) w) : ArchiveOf e ((intervalOf y e).1 ++ w) := by
  obtain ⟨hlength, hlow, hhigh⟩ := h
  rw [stepEnc_coder] at hlow hhigh
  have hwindow (more : List Byte) := window_before_bit hordered (hlow more) (hhigh more)
  refine ⟨by rw [List.length_append]; omega, fun more => ?_, fun more => ?_⟩ <;> rw [List.append_assoc]
  · exact (hwindow more).1
  · exact (hwindow more).2

/-- What an encoder writes from `e` to the end of its session is an archive from `e` on: FLUSH writes X1 itself, and a coded
bit keeps what follows it inside the interval it came from. -/
theorem encode_session {l : List Instr} (hl : l.all isModelCommand = true) {e sE : State}
    (hordered : e.coder.x1.toNat < e.coder.x2.toNat) (h : runAll (l ++ [.flush]) e = some sE) :
    ∃ w, sE.ports.archOut = e.ports.archOut ++ w ∧ ArchiveOf e w := by
  induction l generalizing e with
  | nil =>
    rw [flush_of_runAll h, flushEffect_eq]
    exact ⟨_, rfl, .flush hordered⟩
  | cons i l ih =>
    rw [List.all_cons, Bool.and_eq_true] at hl
    obtain ⟨imm, rfl⟩ | hi := modelCommand_cases hl.1
    · obtain ⟨-, hrest⟩ := encBit_of_runAll_cons h
      have hordered' := stepEnc_ordered (e := consume 1 e) hordered (immBit imm)
      obtain ⟨w, hout, harchive⟩ := ih hl.2 hordered' hrest
      obtain ⟨hports, -, -⟩ := stepEnc_ports (immBit imm) (consume 1 e)
      have hbit := ArchiveOf.bit (e := consume 1 e) hordered harchive
      refine ⟨_, ?_, hbit.length, hbit.low, hbit.high⟩
      rw [hout, ← List.append_assoc]
      exact congrArg (·.archOut ++ w) hports
    · obtain ⟨-, hrest⟩ := ready_of_runAll_cons hi.available h
      have hkept := hi.kept e i.words
      obtain ⟨w, hout, hlength, hlow, hhigh⟩ := ih hl.2 (by rwa [hkept.coder]) hrest
      rw [hkept.coder] at hlow hhigh
      exact ⟨w, by rw [hout, hkept.archOut], hlength, hlow, hhigh⟩

/-! ### The decoder's session -/

/-- A decoder that is to follow the encoder `e`, the archive `z` from `e` on before it. -/
structure Follows (e d : State) (z : List Byte) : Prop where
  same : SameModel e d
  encMode : e.mode = .enc
  mode : d.mode = .dec
  halt : d.halt = false
  window : d.coder.x = archiveWindow z
  fifo : d.ports.archIn = z.drop 4

theorem Follows.of_kept {e d e' d' : State} {z : List Byte} (h : Follows e d z) (hsame : SameModel e' d')
    (hkeptE : CoderKept e e') (hkept : CoderKept d d') : Follows e' d' z :=
  ⟨hsame, hkeptE.mode.trans h.encMode, hkept.mode.trans h.mode, hkept.halt.trans h.halt, hkept.coder ▸ h.window, hkept.archIn.trans h.fifo⟩

/-- STOP ends the session of a decoder with the model of the encoder that FLUSH ended. -/
theorem Follows.stop {e d : State} {z : List Byte} (h : Follows e d z) :
    ∃ sD, runAll [.stop] d = some sD ∧ sD.ports.result = d.ports.result ∧
      SameModel (flushEffect (consume 1 e)) sD := by
  have hready : expectedError .stop d = none :=
    expectedError_session (i := .stop) (by simp) (by simp [allowedModes, h.mode])
  refine ⟨_, runAll_cons_of_ready h.halt hready (available_zero d) [], rfl, ?_⟩
  rw [flushEffect_eq]
  exact h.same.congr rfl rfl

/-- DEC_BIT runs where ENC_BIT ran, returns its bit, and the decoder follows the encoder on. -/
theorem Follows.bit {e d : State} {imm : Half} {w more : List Byte} (hordered : e.coder.x1.toNat < e.coder.x2.toNat)
    (hnone : expectedError (.encBit imm) e = none) (harchive : ArchiveOf (stepEnc (immBit imm) (consume 1 e)) w)
    (h : Follows e d ((intervalOf (immBit imm) (consume 1 e)).1 ++ (w ++ more))) (l : List Instr) :
    ∃ d', runAll (.decBit :: l) d = runAll l d' ∧ Follows (stepEnc (immBit imm) (consume 1 e)) d' (w ++ more) ∧
      d'.ports.result = d.ports.result ++ [if immBit imm then 1 else 0] := by
  obtain ⟨-, -, -, -, hcount⟩ := (expectedError_none_iff _ e).mp hnone
  have hready : expectedError .decBit d = none := expectedError_decBit h.mode (h.same.mixer ▸ hcount rfl)
  have hlow := harchive.low more
  have hhigh := harchive.high more
  have hlength := harchive.length
  rw [stepEnc_coder] at hlow hhigh
  have hsame := h.same.consume 1 1
  have hbytes : available (bytesNeeded d .decBit) d = true :=
    available_decBit (e := consume 1 e) (d := consume 1 d) hordered hlow hhigh hsame h.window h.fifo
      (by rw [List.length_append]; omega)
  obtain ⟨hmodel, hwindow, hfifo, hresult⟩ :=
    decBitEffect_follows (e := consume 1 e) (d := consume 1 d) hordered hlow hhigh hsame h.window h.fifo
  refine ⟨_, runAll_cons_of_ready h.halt hready hbytes l, ⟨hmodel, ?_, ?_, ?_, hwindow, hfifo⟩, hresult⟩
  · exact (stepEnc_trains _ _).mode.trans h.encMode
  · exact (effectOf_mode .decBit _).trans h.mode
  · exact (effectOf_halt .decBit _).trans h.halt

/-- A decoder that follows the encoder at the start of the session runs it to its end and returns the coded bits. -/
theorem decode_session {l : List Instr} (hl : l.all isModelCommand = true) {e d sE : State} {w more : List Byte}
    (hordered : e.coder.x1.toNat < e.coder.x2.toNat) (h : runAll (l ++ [.flush]) e = some sE)
    (hout : sE.ports.archOut = e.ports.archOut ++ w) (hd : Follows e d (w ++ more)) :
    ∃ sD, runAll (l.map mirrored ++ [.stop]) d = some sD ∧
      sD.ports.result = d.ports.result ++ (codedBits l).map (fun y => if y then 1 else 0) ∧ SameModel sE sD := by
  induction l generalizing e d w with
  | nil =>
    obtain rfl := flush_of_runAll h
    obtain ⟨sD, hrun, hresult, hsame⟩ := hd.stop
    exact ⟨sD, hrun, by simp [hresult, codedBits], hsame⟩
  | cons i l ih =>
    rw [List.all_cons, Bool.and_eq_true] at hl
    obtain ⟨imm, rfl⟩ | hi := modelCommand_cases hl.1
    · obtain ⟨hnone, hrest⟩ := encBit_of_runAll_cons h
      have hordered' := stepEnc_ordered (e := consume 1 e) hordered (immBit imm)
      obtain ⟨w', hout', harchive⟩ := encode_session hl.2 hordered' hrest
      obtain ⟨hports, -, -⟩ := stepEnc_ports (immBit imm) (consume 1 e)
      have hw : w = (intervalOf (immBit imm) (consume 1 e)).1 ++ w' := by
        have hbytes := hout'.symm.trans hout
        rw [hports, List.append_assoc] at hbytes
        exact (List.append_cancel_left hbytes).symm
      rw [hw, List.append_assoc] at hd
      obtain ⟨d', hstep, hd', hresult⟩ := hd.bit hordered hnone harchive (l.map mirrored ++ [.stop])
      obtain ⟨sD, hrun, hresults, hsame⟩ := ih hl.2 hordered' hrest hout' hd'
      exact ⟨sD, hstep.trans hrun, by rw [hresults, hresult, List.append_assoc]; rfl, hsame⟩
    · obtain ⟨hnone, hrest⟩ := ready_of_runAll_cons hi.available h
      have hkeptE := hi.kept e i.words
      have hkeptD := hi.kept d i.words
      have hmode : d.mode ∈ allowedModes i :=
        hd.mode ▸ hi.modes (hd.encMode ▸ ((expectedError_none_iff i e).mp hnone).1)
      obtain ⟨sD, hrun, hresults, hsame⟩ := ih hl.2 (by rwa [hkeptE.coder]) hrest (by rw [hout, hkeptE.archOut])
        (hd.of_kept (hi.sameModel hd.same i.words) hkeptE hkeptD)
      refine ⟨sD, ?_, by rw [hresults, hkeptD.result, hi.bits], hsame⟩
      rw [List.map_cons, hi.mirrored, List.cons_append, hi.runs hd.same hmode hd.halt hnone, hrun]

/-! ### From hardware reset -/

theorem startEncEffect_startDecEffect {e d : State} (h : SameModel e d) : SameModel (startEncEffect e) (startDecEffect d) := by
  rw [startDecEffect_eq]
  have hstart : SameModel (startEncEffect e) (startEncEffect d) := h.map fun _ => rfl
  exact hstart.congr rfl rfl

/-- START_DEC on an archive brings the decoder behind an encoder that ran START_ENC. -/
theorem follows_of_start {e d : State} (h : SameModel e d) (hh : d.halt = false) :
    Follows (startEncEffect e) (startDecEffect d) d.ports.archIn where
  same := startEncEffect_startDecEffect h
  encMode := rfl
  mode := rfl
  halt := (effectOf_halt .startDec d).trans hh
  window := by rw [startDecEffect_eq]
  fifo := by rw [startDecEffect_eq]

theorem startEnc_of_runAll_cons {l : List Instr} {s s' : State} (h : runAll (.startEnc :: l) s = some s') :
    runAll l (startEncEffect (consume 1 s)) = some s' :=
  (ready_of_runAll_cons (i := .startEnc) (available_zero s) h).2

theorem runAll_startDec {s : State} (hmode : s.mode = .idle) (hh : s.halt = false) (hbytes : 4 ≤ s.ports.archIn.length)
    (l : List Instr) : runAll (.startDec :: l) s = runAll l (startDecEffect (consume 1 s)) :=
  runAll_cons_of_ready (i := .startDec) hh
    (expectedError_session (i := .startDec) (by simp) (by simp [allowedModes, hmode])) (available_of_le hbytes) l

/-- Settles O22: the controls leave both machines alike, START puts the decoder behind the encoder on the archive the session
writes, and it follows to the end. -/
theorem decodeOfEncodeReturnsTheBits : Obligations.DecodeOfEncodeReturnsTheBits := by
  intro c controls session more eos sE _ hcontrols hsession h
  have hreset (p : Ports) : SameModel (State.resetWith c) { State.resetWith c with ports := p } :=
    ⟨rfl, rfl, rfl, rfl, rfl, rfl, rfl, rfl, rfl, rfl, rfl, rfl⟩
  simp only [List.append_assoc, List.cons_append, List.nil_append, runAll_append controls] at h ⊢
  obtain ⟨e, hrun, hstart⟩ := Option.bind_eq_some_iff.mp h
  obtain ⟨d, hrunD, hsame, hkeptE, hkeptD⟩ := runAll_controls hcontrols (hreset
    { emptyPorts with archIn := sE.ports.archOut ++ more, eos := eos }) rfl rfl rfl hrun
  have hencode := startEnc_of_runAll_cons hstart
  have hordered : (startEncEffect (consume 1 e)).coder.x1.toNat < (startEncEffect (consume 1 e)).coder.x2.toNat :=
    interval_full.1
  obtain ⟨w, hout, harchive⟩ := encode_session hsession hordered hencode
  have hw : sE.ports.archOut = w := hout.trans (congrArg (· ++ w) hkeptE.archOut)
  have harchIn : d.ports.archIn = w ++ more := hkeptD.archIn.trans (hw ▸ rfl)
  have hlength : 4 ≤ d.ports.archIn.length := by
    rw [harchIn, List.length_append]
    exact Nat.le_add_right_of_le harchive.length
  have hfollows := follows_of_start (hsame.consume 1 1) (d := consume 1 d) hkeptD.halt
  rw [consume_ports, harchIn] at hfollows
  obtain ⟨sD, hdecode, hresult, hmodel⟩ := decode_session hsession hordered hencode hout hfollows
  refine ⟨sD, ?_, ?_, hmodel⟩
  · rw [hrunD, Option.bind_some, runAll_startDec hkeptD.mode hkeptD.halt hlength]
    exact hdecode
  · rw [hresult, startDecEffect_eq]
    exact congrArg (· ++ _) hkeptD.result

end Sys2Proof.Machine
end

section
/-! The bit-history states (42_bithistory.md): what BH_QUERY returns (R231, R236), and the default table against the
generation rule it is made by (R233, R234). -/

namespace Sys2Proof.Machine

/-! ### The functions over BH_TABLE, on a used and on an unused code (R231) -/

section
variable {t : List BhRow} {code : Byte} {r : BhRow}

theorem bhNext_of_row (h : t[code.toNat]? = some r) (b : Bool) :
    bhNext t code b = if b then r.next1 else r.next0 := by
  simp [bhNext, bhRowOr0, h]

theorem bhCount_of_row (h : t[code.toNat]? = some r) (b : Bool) : bhCount t code b = if b then r.n1 else r.n0 := by
  simp [bhCount, h]

theorem bhYoung_of_row (h : t[code.toNat]? = some r) : bhYoung t code = r.young := by simp [bhYoung, h]

theorem bhNext_of_unused (h : t[code.toNat]? = none) (hstart : t.head? = some r) (b : Bool) :
    bhNext t code b = if b then r.next1 else r.next0 := by
  rw [List.head?_eq_getElem?] at hstart
  simp [bhNext, bhRowOr0, h, List.getD, hstart]

theorem bhCount_of_unused (h : t[code.toNat]? = none) (b : Bool) : bhCount t code b = 0 := by simp [bhCount, h]

end

/-! ### BH_QUERY (R236) -/

theorem expectedError_bhQuery (code : Byte) (s : State) : expectedError (.bhQuery code) s = none :=
  (expectedError_none_iff _ s).mpr ⟨mode_mem_every _, rfl, rfl, by simp [pushedBy], by simp [needsCount]⟩

theorem exec_bhQuery (code : Byte) (s : State) :
    exec (.bhQuery code) s = .next (result (bhQueryWord s.cfg.bhTable code) (consume 1 s)) :=
  exec_of_ready (expectedError_bhQuery code s) (available_zero s)

/-- The four bytes of the result word. -/
theorem toNat_bhQueryWord (t : List BhRow) (code : Byte) :
    (bhQueryWord t code).toNat = (bhNext t code false).toNat + 256 * (bhNext t code true).toNat +
      65536 * (bhCount t code false).toNat + 16777216 * (bhCount t code true).toNat := by
  simp only [bhQueryWord, toNat_append_eq]
  omega

/-- R236's worked results. -/
theorem bhQueryWord_default :
    bhQueryWord defaultBhTable 0 = 0x00000102 ∧ bhQueryWord defaultBhTable 4 = 0x0101090A ∧
    bhQueryWord defaultBhTable 250 = 0x00000102 := by
  decide +kernel

/-- Settles O30: no check of BH_QUERY fails in any state, and the word it appends is read byte by byte from the row of the
code, or from that of code 0 with zero counts. -/
theorem bhQueryReturnsTheRow : Obligations.BhQueryReturnsTheRow := by
  refine ⟨fun s htable => ?_, fun code s => ⟨_, exec_bhQuery code s, fun r hrow => ?_, fun r0 hunused hstart => ?_⟩⟩
  · obtain ⟨h0, h4, h250⟩ := bhQueryWord_default
    simp only [exec_bhQuery, htable, h0, h4, h250, and_self]
  · simp [toNat_bhQueryWord, bhNext_of_row hrow, bhCount_of_row hrow]
  · simp [toNat_bhQueryWord, bhNext_of_unused hunused hstart, bhCount_of_unused hunused]

/-! ### The transitions of the default table (R233) -/

/-- The triple (n0, n1, young) of R233 that a table gives a code. -/
def bhTriple (t : List BhRow) (code : Byte) : Nat × Nat × Bool :=
  ((bhCount t code false).toNat, (bhCount t code true).toNat, bhYoung t code)

theorem length_defaultBhTable : defaultBhTable.length = 239 := by decide +kernel

theorem bhTriple_start : bhTriple defaultBhTable 0 = (0, 0, false) := rfl

/-- Both transitions of each row are the generation rule's. -/
theorem defaultBhTable_rows_generated : ∀ r ∈ defaultBhTable, ∀ b : Bool,
    bhTriple defaultBhTable (if b then r.next1 else r.next0) = bhGenerate r.n0.toNat r.n1.toNat b := by
  decide +kernel

/-- A used code of the default table has a row. -/
theorem defaultBhTable_row {code : Byte} (h : code.toNat < 239) :
    ∃ r ∈ defaultBhTable, defaultBhTable[code.toNat]? = some r :=
  ⟨_, List.getElem_mem h, List.getElem?_eq_getElem h⟩

theorem bhTriple_next {code : Byte} (h : code.toNat < 239) (b : Bool) :
    bhTriple defaultBhTable (bhNext defaultBhTable code b) =
      bhGenerate (bhCount defaultBhTable code false).toNat (bhCount defaultBhTable code true).toNat b := by
  obtain ⟨r, hmem, hrow⟩ := defaultBhTable_row h
  simpa [bhNext_of_row hrow, bhCount_of_row hrow] using defaultBhTable_rows_generated r hmem b

/-! ### The codes follow in order (R233) -/

/-- The order of the rows: by total, then by n0, then by young. -/
abbrev RowBefore (r u : BhRow) : Prop :=
  r.n0.toNat + r.n1.toNat < u.n0.toNat + u.n1.toNat ∨
  (r.n0.toNat + r.n1.toNat = u.n0.toNat + u.n1.toNat ∧
    (r.n0.toNat < u.n0.toNat ∨ (r.n0.toNat = u.n0.toNat ∧ r.young = false ∧ u.young = true)))

theorem defaultBhTable_chain : defaultBhTable.IsChain RowBefore := by decide +kernel

/-- The rows of a used code and of the code after it. -/
theorem defaultBhTable_successive {code : Byte} (h : code.toNat < 238) :
    ∃ r u, defaultBhTable[code.toNat]? = some r ∧ defaultBhTable[(code + 1).toNat]? = some u ∧ RowBefore r u := by
  have hlt : code.toNat + 1 < defaultBhTable.length := by rw [length_defaultBhTable]; omega
  have hsucc : (code + 1).toNat = code.toNat + 1 := by bv_omega
  rw [hsucc]
  exact ⟨_, _, List.getElem?_eq_getElem (by omega), List.getElem?_eq_getElem hlt,
    List.isChain_iff_getElem.mp defaultBhTable_chain _ hlt⟩

/-! ### The codes are those reached from code 0 (R233) -/

/-- Some coded bits lead from code 0 to the code. -/
inductive BhReached (t : List BhRow) : Byte → Prop
  | start : BhReached t 0
  | next {code : Byte} (b : Bool) : BhReached t code → BhReached t (bhNext t code b)

theorem BhReached.bits {t : List BhRow} {code : Byte} (h : BhReached t code) :
    ∃ bits : List Bool, bits.foldl (bhNext t) 0 = code := by
  induction h with
  | start => exact ⟨[], rfl⟩
  | next b _ ih =>
    obtain ⟨bits, rfl⟩ := ih
    exact ⟨bits ++ [b], List.foldl_append⟩

/-- Codes as the bits of a number, each reached from code 0. -/
def BhReachedSet (t : List BhRow) (m : Nat) : Prop := ∀ k, m.testBit k = true → BhReached t (BitVec.ofNat 8 k)

theorem BhReachedSet.start (t : List BhRow) : BhReachedSet t 1 := fun k hk => by
  rw [Nat.testBit_one_eq_true_iff_self_eq_zero.mp hk]
  exact .start

theorem BhReachedSet.insert {t : List BhRow} {m : Nat} {code : Byte} (hm : BhReachedSet t m) (h : BhReached t code) :
    BhReachedSet t (m ||| 2 ^ code.toNat) := fun k hk => by
  rw [Nat.testBit_or, Bool.or_eq_true, Nat.testBit_two_pow, decide_eq_true_eq] at hk
  obtain hk | rfl := hk
  · exact hm k hk
  · rwa [BitVec.ofNat_toNat, BitVec.setWidth_eq]

/-- One pass over the codes below `n`, in order: each that the set `m` holds by then adds the codes it leads to. -/
def bhSweep (t : List BhRow) : Nat → Nat → Nat
  | 0, m => m
  | n + 1, m =>
    if (bhSweep t n m).testBit n then
      bhSweep t n m ||| 2 ^ (bhNext t (BitVec.ofNat 8 n) false).toNat ||| 2 ^ (bhNext t (BitVec.ofNat 8 n) true).toNat
    else bhSweep t n m

theorem BhReachedSet.sweep {t : List BhRow} {m : Nat} (hm : BhReachedSet t m) (n : Nat) :
    BhReachedSet t (bhSweep t n m) := by
  induction n with
  | zero => exact hm
  | succ n ih =>
    rw [bhSweep]
    split
    · next hn => exact (ih.insert ((ih n hn).next false)).insert ((ih n hn).next true)
    · exact ih

/-- One pass is not enough, since a transition can lead to a lower code; three passes find every used code. -/
theorem bhSweep_default :
    bhSweep defaultBhTable 239 (bhSweep defaultBhTable 239 (bhSweep defaultBhTable 239 1)) = 2 ^ 239 - 1 := by
  decide +kernel

theorem bhReached_default {code : Byte} (h : code.toNat < 239) : BhReached defaultBhTable code := by
  have hall := (((BhReachedSet.start defaultBhTable).sweep 239).sweep 239).sweep 239
  rw [bhSweep_default] at hall
  have hcode := hall code.toNat (by rw [Nat.testBit_two_pow_sub_one]; exact decide_eq_true h)
  rwa [BitVec.ofNat_toNat, BitVec.setWidth_eq] at hcode

/-! ### The bound of the totals (R233) -/

theorem bhDisc_le {n : Nat} (h : n ≤ 26) : bhDisc n ≤ 26 := by
  unfold bhDisc
  split <;> omega

/-- The rule bounds the total it gives: the new count stops at 26 - o. -/
theorem bhGenerate_total_le {n0 n1 : Nat} (h : n0 + n1 ≤ 26) (b : Bool) :
    (bhGenerate n0 n1 b).1 + (bhGenerate n0 n1 b).2.1 ≤ 26 := by
  have hdisc0 : bhDisc n0 ≤ 26 := bhDisc_le (by omega)
  have hdisc1 : bhDisc n1 ≤ 26 := bhDisc_le (by omega)
  cases b <;> simp only [bhGenerate, if_true, Bool.false_eq_true, if_false] <;> omega

theorem BhReached.lt {code : Byte} (h : BhReached defaultBhTable code) : code.toNat < 239 := by
  cases h with
  | start => decide
  | next b => exact bhNext_lt (c := defaultCfg 0) (defaultCfg_wf 0) _ b

/-- Each transition keeps the bound, so every code the rule reaches has it. -/
theorem BhReached.total_le {code : Byte} (h : BhReached defaultBhTable code) :
    (bhTriple defaultBhTable code).1 + (bhTriple defaultBhTable code).2.1 ≤ 26 := by
  induction h with
  | start => rw [bhTriple_start]; decide
  | next b hcode ih =>
    rw [bhTriple_next hcode.lt]
    exact bhGenerate_total_le ih b

theorem total_le_default (code : Byte) :
    (bhCount defaultBhTable code false).toNat + (bhCount defaultBhTable code true).toNat ≤ 26 := by
  by_cases h : code.toNat < 239
  · exact (bhReached_default h).total_le
  · have hunused : defaultBhTable[code.toNat]? = none := List.getElem?_eq_none (Nat.le_of_not_lt h)
    simp [bhCount_of_unused hunused]

/-- Settles O31: the transitions and the order row by row, the codes reached by passes over the table, and the bound because
the rule keeps it. -/
theorem defaultTableFollowsGenerationRule : Obligations.DefaultTableFollowsGenerationRule := by
  refine ⟨length_defaultBhTable, ⟨rfl, rfl, rfl⟩, total_le_default, fun _ h b => bhTriple_next h b, fun code h => ?_,
    fun _ h => (bhReached_default h).bits⟩
  obtain ⟨r, u, hrow, hrow', hbefore⟩ := defaultBhTable_successive h
  simp only [bhCount_of_row hrow, bhCount_of_row hrow', bhYoung_of_row hrow, bhYoung_of_row hrow']
  exact hbefore

end Sys2Proof.Machine
end

section
/-! FIND (43_contextmap.md R255 to R257): where it ends, what it writes, and what two calls return. -/

namespace Sys2Proof.Machine

/-! ### TOUCH and CLAIM -/

theorem mruAt_touch_same (b s : Nat) (m : ContextMap) : mruAt (touch b s m) b =
    if (mruAt m b).mru0.toNat = s then mruAt m b else ⟨BitVec.ofNat 4 s, (mruAt m b).mru0⟩ := by
  unfold touch
  dsimp only
  split
  · rfl
  · rw [mruAt_setMru_same]

theorem mruAt_touch_other {b b' : Nat} (h : b' ≠ b) (s : Nat) (m : ContextMap) : mruAt (touch b s m) b' = mruAt m b' := by
  unfold touch
  dsimp only
  split
  · rfl
  · rw [mruAt_setMru_other m _ h]

@[simp] theorem slotAt_claim_same (b s : Nat) (chk : Half) (m : ContextMap) :
    slotAt (claim b s chk m) b s = { slotInit 0 with chk := chk } := slotAt_setSlot_same m b s _

theorem slotAt_claim_other {b s b' k : Nat} (hs : s < 16) (hk : k < 16) (h : b' ≠ b ∨ k ≠ s) (chk : Half) (m : ContextMap) :
    slotAt (claim b s chk m) b' k = slotAt m b' k :=
  slotAt_setSlot_other m _ (by rw [Ne, slotKey_inj hk hs]; omega)

@[simp] theorem mruAt_claim (b s : Nat) (chk : Half) (m : ContextMap) (b' : Nat) : mruAt (claim b s chk m) b' = mruAt m b' :=
  rfl

/-! ### VICTIM (R256) -/

theorem evictable_iff (m : ContextMap) (b s : Nat) :
    evictable m b s = true ↔ s ≠ (mruAt m b).mru0.toNat ∧ s ≠ (mruAt m b).mru1.toNat := by
  simp [evictable, @eq_comm _ s]

/-- The slot VICTIM chooses: of least priority among those it may choose, and the least index among equals. -/
structure IsVictim (n b : Nat) (m : ContextMap) (v : Nat) : Prop where
  lt : v < n
  allowed : evictable m b v = true
  least : ∀ k, k < n → evictable m b k = true →
    priority m b v < priority m b k ∨ (priority m b v = priority m b k ∧ v ≤ k)

/-- In a rising list the element of less place is the lesser. -/
theorem le_of_idxOf_le {l : List Nat} (hl : l.Pairwise (· < ·)) {x y : Nat} (hx : x ∈ l) (hy : y ∈ l)
    (h : l.idxOf x ≤ l.idxOf y) : x ≤ y := by
  have hxl := List.idxOf_lt_length_of_mem hx
  have hyl := List.idxOf_lt_length_of_mem hy
  rw [← List.getElem_idxOf hxl, ← List.getElem_idxOf hyl]
  obtain h | h := h.lt_or_eq
  · exact (List.pairwise_iff_getElem.mp hl _ _ hxl hyl h).le
  · simp only [h, le_refl]

/-- VICTIM's scan keeps the first of the least, as `List.argmin` does. -/
theorem victim_eq_argmin (n b : Nat) (m : ContextMap) :
    victim n b m = (((List.range n).filter (evictable m b)).argmin (priority m b)).getD 0 := by
  have hlesser : lesser m b = List.argAux fun s v => priority m b s < priority m b v := by
    funext best s
    cases best <;> rfl
  rw [victim, hlesser]; rfl

/-- Two slots are barred at most, so of three one is left. -/
theorem victim_spec {n : Nat} (hn : 3 ≤ n) (b : Nat) (m : ContextMap) : IsVictim n b m (victim n b m) := by
  rw [victim_eq_argmin]
  set l := (List.range n).filter (evictable m b) with hl
  have mem_iff (k : Nat) : k ∈ l ↔ k < n ∧ evictable m b k = true := by simp [hl]
  have hrising : l.Pairwise (· < ·) := List.pairwise_lt_range.filter _
  cases hv : l.argmin (priority m b) with
  | none =>
    have hnil : l = [] := List.argmin_eq_none.mp hv
    have barred (k : Nat) (hk : k < 3) : ¬ (k ≠ (mruAt m b).mru0.toNat ∧ k ≠ (mruAt m b).mru1.toNat) := fun h =>
      List.not_mem_nil (hnil ▸ (mem_iff k).mpr ⟨by omega, (evictable_iff m b k).mpr h⟩)
    have := barred 0 (by omega)
    have := barred 1 (by omega)
    have := barred 2 (by omega)
    omega
  | some v =>
    obtain ⟨hmem, hmin, hfirst⟩ := List.argmin_eq_some_iff.mp hv
    obtain ⟨hlt, hevictable⟩ := (mem_iff v).mp hmem
    refine ⟨hlt, hevictable, fun k hk hke => ?_⟩
    have hkl : k ∈ l := (mem_iff k).mpr ⟨hk, hke⟩
    obtain h | h := (hmin k hkl).lt_or_eq
    · exact .inl h
    · exact .inr ⟨h, le_of_idxOf_le hrising hmem hkl (hfirst k hkl h.ge)⟩

/-! ### FIND (R255) -/

/-- The least slot below `n` for which `p` holds. -/
structure IsLeastSlot (n : Nat) (p : Nat → Prop) (s : Nat) : Prop where
  lt : s < n
  holds : p s
  least : ∀ k, k < s → ¬ p k

/-- What FIND can answer: a slot that matched, touched; or a slot taken, because it was empty or as the victim of a bucket
with no empty slot, which is claimed and touched. -/
inductive Found (n b : Nat) (chk : Half) (m : ContextMap) : Nat × ContextMap → Prop where
  | matched {s : Nat} (hleast : IsLeastSlot n (fun k => (slotAt m b k).chk = chk) s) : Found n b chk m (s, touch b s m)
  | taken {s : Nat} (habsent : ∀ k, k < n → (slotAt m b k).chk ≠ chk)
      (hchoice : IsLeastSlot n (fun k => (slotAt m b k).b0 = 0) s ∨
        (∀ k, k < n → (slotAt m b k).b0 ≠ 0) ∧ IsVictim n b m s) :
      Found n b chk m (s, touch b s (claim b s chk m))

theorem isLeastSlot_of_find? {n : Nat} {p : Nat → Prop} [DecidablePred p] {s : Nat}
    (h : ((List.range n).find? fun k => decide (p k)) = some s) : IsLeastSlot n p s := by
  obtain ⟨hs, hmem, hleast⟩ := List.find?_range_eq_some.mp h
  exact ⟨List.mem_range.mp hmem, of_decide_eq_true hs, fun k hk => by simpa using hleast k hk⟩

theorem find_found {n : Nat} (hn : 3 ≤ n) (b : Nat) (chk : Half) (m : ContextMap) : Found n b chk m (find n b chk m) := by
  unfold find
  split
  · next s hs => exact .matched (isLeastSlot_of_find? hs)
  · next habsent =>
    have habsent : ∀ k, k < n → (slotAt m b k).chk ≠ chk := by simpa using habsent
    split
    · next s hs => exact .taken habsent (.inl (isLeastSlot_of_find? hs))
    · next hfull => exact .taken habsent (.inr ⟨by simpa using hfull, victim_spec hn b m⟩)

/-- The least slot that matches is the one FIND returns. -/
theorem find_of_match {n b : Nat} {chk : Half} {m : ContextMap} {s : Nat}
    (h : IsLeastSlot n (fun k => (slotAt m b k).chk = chk) s) : find n b chk m = (s, touch b s m) := by
  have hscan : ((List.range n).find? fun k => (slotAt m b k).chk == chk) = some s := by
    rw [List.find?_range_eq_some]
    exact ⟨by simpa using h.holds, List.mem_range.mpr h.lt, fun k hk => by simpa using h.least k hk⟩
  rw [find, hscan]

section
variable {n b : Nat} {chk : Half} {m : ContextMap} {r : Nat × ContextMap} (h : Found n b chk m r)
include h

theorem Found.lt : r.1 < n := by
  cases h with
  | matched hleast => exact hleast.lt
  | taken habsent hchoice => exact hchoice.elim (·.lt) (·.2.lt)

theorem Found.of_match (hmatch : ∃ k, k < n ∧ (slotAt m b k).chk = chk) :
    IsLeastSlot n (fun k => (slotAt m b k).chk = chk) r.1 ∧ r.2 = touch b r.1 m := by
  obtain ⟨k, hk, hchk⟩ := hmatch
  cases h with
  | matched hleast => exact ⟨hleast, rfl⟩
  | taken habsent => exact absurd hchk (habsent k hk)

theorem Found.of_absent (habsent : ∀ k, k < n → (slotAt m b k).chk ≠ chk) :
    (IsLeastSlot n (fun k => (slotAt m b k).b0 = 0) r.1 ∨ (∀ k, k < n → (slotAt m b k).b0 ≠ 0) ∧ IsVictim n b m r.1) ∧
    r.2 = touch b r.1 (claim b r.1 chk m) := by
  cases h with
  | matched hleast => exact absurd hleast.holds (habsent _ hleast.lt)
  | taken _ hchoice => exact ⟨hchoice, rfl⟩

/-- FIND leaves the MRU pair TOUCH makes of the pair it found. -/
theorem Found.mruAt_same :
    mruAt r.2 b = if (mruAt m b).mru0.toNat = r.1 then mruAt m b else ⟨BitVec.ofNat 4 r.1, (mruAt m b).mru0⟩ := by
  cases h with
  | matched => exact mruAt_touch_same b _ m
  | taken => exact mruAt_touch_same b _ _

theorem Found.mruAt_other {b' : Nat} (hb : b' ≠ b) : mruAt r.2 b' = mruAt m b' := by
  cases h with
  | matched => exact mruAt_touch_other hb _ m
  | taken => exact mruAt_touch_other hb _ _

/-- FIND writes no slot but the one it returns. -/
theorem Found.slotAt_other (hn : n ≤ 15) {b' k : Nat} (hk : k < 16) (hother : b' ≠ b ∨ k ≠ r.1) :
    slotAt r.2 b' k = slotAt m b' k := by
  have hs := h.lt
  cases h with
  | matched => rw [slotAt_touch]
  | taken => rw [slotAt_touch, slotAt_claim_other (by omega) hk hother]

/-- After FIND the slot it returned is the least that holds the checksum. -/
theorem Found.isLeast_after (hn : n ≤ 15) : IsLeastSlot n (fun k => (slotAt r.2 b k).chk = chk) r.1 := by
  have hlt := h.lt
  have kept (k : Nat) (hk : k < r.1) : (slotAt r.2 b k).chk = (slotAt m b k).chk := by
    rw [h.slotAt_other hn (by omega) (.inr hk.ne)]
  refine ⟨hlt, ?_, fun k hk => (kept k hk).trans_ne ?_⟩
  · cases h with
    | matched hleast => simpa using hleast.holds
    | taken => simp
  · cases h with
    | matched hleast => exact hleast.least k hk
    | taken habsent => exact habsent k (hk.trans hlt)

end

/-- Settles O34: each clause is read off the one way FIND can end under its premise. -/
theorem findFollowsTheScan : Obligations.FindFollowsTheScan := by
  intro n b chk m hthree hfifteen r u
  have h : Found n b chk m r := find_found hthree b chk m
  refine ⟨h.lt, fun hmatch => ?_, fun habsent => ?_, fun habsent hempty => ?_, fun hneither => ?_, h.mruAt_same,
    fun b' k hk hother => h.slotAt_other hfifteen hk hother, fun b' hb => h.mruAt_other hb, find_fields n b chk m⟩
  · obtain ⟨hleast, hmap⟩ := h.of_match hmatch
    exact ⟨hleast.holds, hleast.least, by rw [hmap, slotAt_touch]⟩
  · obtain ⟨-, hmap⟩ := h.of_absent habsent
    rw [hmap, slotAt_touch, slotAt_claim_same]
  · obtain ⟨hleast | ⟨hfull, -⟩, -⟩ := h.of_absent habsent
    · exact ⟨hleast.holds, hleast.least⟩
    · obtain ⟨k, hk, hb0⟩ := hempty
      exact absurd hb0 (hfull k hk)
  · obtain ⟨hleast | ⟨-, hvictim⟩, -⟩ := h.of_absent fun k hk => (hneither k hk).1
    · exact absurd hleast.holds (hneither _ hleast.lt).2
    · obtain ⟨hne0, hne1⟩ := (evictable_iff m b r.1).mp hvictim.allowed
      exact ⟨hne0, hne1, fun k hk hk0 hk1 => hvictim.least k hk ((evictable_iff m b k).mpr ⟨hk0, hk1⟩)⟩

/-- Settles O35: the slot of the first call is the least that holds the checksum after it, so the second call matches it. -/
theorem findIsStable : Obligations.FindIsStable := by
  intro n b chk m m' hthree hfifteen hkept
  have h := (find_found hthree b chk m).isLeast_after hfifteen
  rw [find_of_match ⟨h.lt, (hkept _ h.lt).trans h.holds, fun k hk => ?_⟩]
  exact (hkept k (hk.trans h.lt)).trans_ne (h.least k hk)

end Sys2Proof.Machine
end

section
/-! HASH and LOOKUP (43_contextmap.md R254), and the commands CM_SET (R258) and CM_SETSCALE (R265) with the other two that set
a scale; every step keeps the context map sound. -/

namespace Sys2Proof.Machine

/-! ### HASH and LOOKUP (R254) -/

theorem hashKey_toNat (fp : Long) (l : Nat) (c0 : BitVec 9) : (hashKey fp l c0).toNat =
    fp.toNat ^^^ ((l + 1) * 0x9E3779B97F4A7C15 % 2 ^ 64) ^^^ (c0.toNat * 0xC2B2AE3D27D4EB4F % 2 ^ 64) := by
  have hc0 : (c0.setWidth 64).toNat = c0.toNat := BitVec.toNat_setWidth_of_le (by omega)
  rw [hashKey, BitVec.toNat_xor, BitVec.toNat_xor, BitVec.toNat_mul, BitVec.toNat_mul, hc0, BitVec.toNat_ofNat,
    Nat.mod_mul_mod]
  rfl

theorem hashOne_toNat (key : Long) : (hashOne key).toNat =
    let g := key.toNat * 0xD6E8FEB86659FD93 % 2 ^ 64
    g ^^^ (g / 2 ^ 32) := by
  rw [hashOne, BitVec.toNat_xor, BitVec.toNat_ushiftRight, BitVec.toNat_mul, Nat.shiftRight_eq_div_pow]
  rfl

theorem hash_bucket_toNat {log2b : Nat} (h : log2b ≤ 28) (fp : Long) (l : Nat) (c0 : BitVec 9) :
    (hash log2b fp l c0).1.toNat = (hashOne (hashKey fp l c0)).toNat / 2 ^ (64 - log2b) := by
  have hpow : 2 ^ 64 ≤ 2 ^ (64 - log2b) * 2 ^ 28 := by
    rw [← pow_add]
    exact Nat.pow_le_pow_right (by omega) (by omega)
  rw [hash, BitVec.toNat_setWidth, BitVec.toNat_ushiftRight, Nat.shiftRight_eq_div_pow, Nat.mod_eq_of_lt]
  exact Nat.div_lt_of_lt_mul ((hashOne _).isLt.trans_le hpow)

theorem hash_checksum_toNat (log2b : Nat) (fp : Long) (l : Nat) (c0 : BitVec 9) : (hash log2b fp l c0).2.toNat =
    let h1 := (hashOne (hashKey fp l c0)).toNat
    (h1 ^^^ (h1 / 2 ^ 29)) * 0xBF58476D1CE4E5B9 % 2 ^ 64 / 2 ^ 48 := by
  rw [hash, BitVec.toNat_setWidth, BitVec.toNat_ushiftRight, BitVec.toNat_mul, BitVec.toNat_xor, BitVec.toNat_ushiftRight,
    Nat.shiftRight_eq_div_pow, Nat.shiftRight_eq_div_pow]
  exact Nat.mod_eq_of_lt (Nat.div_lt_of_lt_mul (Nat.mod_lt _ (by decide)))

/-- The worked values of R254. -/
theorem hash_worked :
    hash 10 0 0 1 = (0x203, 0xC7D1) ∧ hash 10 0x41 0 1 = (0x276, 0x4789) ∧ hash 10 0x41 1 1 = (0x22E, 0xC8DC) ∧
    hash 10 0x41 0 5 = (0x293, 0xB18E) ∧ hash 11 0 0 1 = (0x407, 0xC7D1) ∧
    hash 20 0x0123456789ABCDEF 3 37 = (0x645F5, 0x647B) := by decide +kernel

/-- Settles O60: each operation of HASH is the whole number's, and the slot FIND returns fits a handle. -/
theorem hashFollowsItsFormula : Obligations.HashFollowsItsFormula := by
  refine ⟨fun log2b fp l c0 _ hlog => ?_, hash_worked, fun c c0 l m hw => ⟨rfl, ?_, rfl⟩⟩
  · intro key g h1 h2
    have hone : (hashOne (hashKey fp l c0)).toNat = h1 := by rw [hashOne_toNat, hashKey_toNat]
    refine ⟨?_, ?_, hash_bucket_lt hlog fp l c0⟩
    · rw [hash_bucket_toNat hlog, hone]
    · rw [hash_checksum_toNat, hone]
  · obtain ⟨-, hthree, hfifteen⟩ := contextMap_bounds hw
    have hslot := (find_found hthree (hash c.cmLog2b (laneAt m l).fp l c0).1.toNat
      (hash c.cmLog2b (laneAt m l).fp l c0).2 m).lt
    exact Nat.mod_eq_of_lt (by omega)

/-! ### The invariants (R256, R257) -/

/-- Settles O56: START clears the context map, FIND claims only a checksum that is absent, and the updates keep the
checksums. -/
theorem stepKeepsContextMapSound : Obligations.StepKeepsContextMapSound := fun _ _ => step_keeps_contextInv

/-! ### CM_SET (R258) -/

theorem touch_setLane (b s l : Nat) (v : Lane) (m : ContextMap) : touch b s (setLane m l v) = setLane (touch b s m) l v := by
  have hmru : mruAt (setLane m l v) b = mruAt m b := rfl
  unfold touch
  dsimp only
  rw [hmru]
  split <;> rfl

/-- FIND reads and writes no lane. -/
theorem find_setLane (n b : Nat) (chk : Half) (m : ContextMap) (l : Nat) (v : Lane) :
    find n b chk (setLane m l v) = ((find n b chk m).1, setLane (find n b chk m).2 l v) := by
  have hslot : slotAt (setLane m l v) = slotAt m := rfl
  have hvictim : victim n b (setLane m l v) = victim n b m := rfl
  have hclaim (s : Nat) : claim b s chk (setLane m l v) = setLane (claim b s chk m) l v := rfl
  unfold find
  simp only [hslot, hvictim, hclaim, touch_setLane]
  split
  · rfl
  · split <;> rfl

/-- A lane written after FIND: the state maps and CM_SCALE are those before it. -/
theorem setLane_of_found {m t : ContextMap} (h : t = { m with slots := t.slots, mru := t.mru }) (l : Nat) (v : Lane) :
    setLane t l v = { m with lanes := (setLane t l v).lanes, slots := t.slots, mru := t.mru } := by
  rw [h]; rfl

theorem cmSetLane_eq {m : ContextMap} {l : Nat} (hl : l < m.lanes.length) (c : Cfg) (c0 : BitVec 9) (fp : Long) :
    cmSetLane c c0 l fp m =
      let h := hash c.cmLog2b fp l c0
      let r := find c.cmSlots h.1.toNat h.2 m
      setLane r.2 l ⟨true, fp, ⟨h.1, BitVec.ofNat 4 r.1⟩, ⟨h.1, BitVec.ofNat 4 r.1⟩⟩ := by
  have hset := laneAt_setLane_same m l { laneAt m l with fp := fp, valid := true } hl
  have hlength (b : Nat) (chk : Half) : l < (find c.cmSlots b chk m).2.lanes.length := by rw [find_fields]; exact hl
  simp only [cmSetLane, lookup, hset, find_setLane, laneAt_setLane_same _ _ _ (hlength _ _)]
  simp only [setLane, List.set_set]

theorem mode_mem_session {m : Mode} (h : m ≠ .idle) : m ∈ [Mode.enc, .dec] := by
  cases m with
  | idle => exact absurd rfl h
  | enc | dec => decide

/-- In a session CM_SET checks the position and the lane. -/
theorem expectedError_cmSet {s : State} (h : s.mode ≠ .idle) (lane : Byte) (fp : Long) :
    expectedError (.cmSet lane fp) s =
      if s.bpos = 0 then if lane.toNat < s.cfg.cmLanes then none else some .range else some .phase := by
  have hmode : s.mode ∈ allowedModes (.cmSet lane fp) := mode_mem_session h
  simp only [expectedError, hmode, phaseHolds, Instr.operandsLegal, pushedBy, needsCount]
  by_cases hbpos : s.bpos = 0 <;> by_cases hlane : lane.toNat < s.cfg.cmLanes <;> simp [hbpos, hlane]

theorem exec_cmSet {lane : Byte} {s : State} (hmode : s.mode ≠ .idle) (hbpos : s.bpos = 0)
    (hlane : lane.toNat < s.cfg.cmLanes) (fp : Long) :
    exec (.cmSet lane fp) s = .next { consume 3 s with cm := cmSetLane s.cfg s.c0 lane.toNat fp s.cm } :=
  exec_of_ready (by rw [expectedError_cmSet hmode, if_pos hbpos, if_pos hlane]) (available_zero s)

/-- Settles O32: the three checks in their order, then FIND and the lane that points at its slot. -/
theorem cmSetPointsTheLaneAtItsSlot : Obligations.CmSetPointsTheLaneAtItsSlot := by
  constructor
  · refine fun lane fp s => ⟨fun hidle => exec_of_error ?_, fun hmode hbpos => exec_of_error ?_,
      fun hmode hbpos hlane => exec_of_error ?_⟩
    · exact expectedError_of_mode (by simp [allowedModes, hidle])
    · rw [expectedError_cmSet hmode, if_neg hbpos]
    · rw [expectedError_cmSet hmode, if_pos hbpos, if_neg (by omega)]
  · intro lane fp s hmode hbpos hlane hlength h r
    have hfind : r.2 = { s.cm with slots := r.2.slots, mru := r.2.mru } := find_fields ..
    have hlanes : r.2.lanes = s.cm.lanes := by rw [hfind]
    have hl : lane.toNat < s.cm.lanes.length := hlength ▸ hlane
    have hexec := exec_cmSet hmode hbpos hlane fp
    rw [cmSetLane_eq hl] at hexec
    refine ⟨_, hexec, rfl, laneAt_setLane_same _ _ _ (hlanes ▸ hl), fun l hne => ?_, ?_⟩
    · exact (laneAt_setLane_other _ _ hne).trans (laneAt_congr hlanes l)
    · exact setLane_of_found hfind lane.toNat _

/-! ### The scale commands (R265) -/

/-- A scale command has no check that can fail, and waits for nothing. -/
theorem exec_scale {i : Instr} {imm : Half} (hi : i ∈ [.cmSetScale imm, .mxSetScale imm, .dmcSetScale imm]) (s : State) :
    exec i s = .next (effectOf i (consume 1 s)) := by
  simp only [List.mem_cons, List.not_mem_nil, or_false] at hi
  obtain rfl | rfl | rfl := hi
  all_goals
    refine exec_of_ready ((expectedError_none_iff _ s).mpr ⟨mode_mem_every _, rfl, rfl, ?_, ?_⟩) (available_zero s)
    · simp [pushedBy]
    · simp [needsCount]

/-- Settles O38: no check can fail, and the operand is the register's value. -/
theorem scaleCommandsWriteTheirRegister : Obligations.ScaleCommandsWriteTheirRegister := by
  intro imm s
  refine ⟨?_, ?_, ?_⟩ <;> rw [exec_scale (imm := imm) (by simp), effectOf, ofNat_immNat] <;> rfl

end Sys2Proof.Machine
end

section
/-! The updates of a lane inside the step: CM_UPDATE (43_contextmap.md R262) and CM_RUN_UPDATE (R264). -/

namespace Sys2Proof.Machine

/-! ### The state index (R253) and the run candidate (R261) -/

/-- The three bit positions of each index within a group: the first, the second and the third. -/
theorem stateIndex_eq (bpos : BitVec 3) (c0 : BitVec 9) : stateIndex bpos c0 =
    if bpos = 0 ∨ bpos = 2 ∨ bpos = 5 then 0 else if bpos = 1 ∨ bpos = 3 ∨ bpos = 6 then 1 + c0.toNat % 2
    else 3 + c0.toNat % 4 := by
  have hbpos : bpos = 0 ∨ bpos = 1 ∨ bpos = 2 ∨ bpos = 3 ∨ bpos = 4 ∨ bpos = 5 ∨ bpos = 6 ∨ bpos = 7 := by
    revert bpos; decide
  rcases hbpos with rfl | rfl | rfl | rfl | rfl | rfl | rfl | rfl <;> rfl

theorem stateIndex_lt (bpos : BitVec 3) (c0 : BitVec 9) : stateIndex bpos c0 < 7 := by
  rw [stateIndex_eq]
  split
  · omega
  · split <;> omega

theorem runInfo_bounds (bpos : BitVec 3) (c0 : BitVec 9) (t : Slot) :
    (runInfo bpos c0 t).1 ≤ 2 ∧ (runInfo bpos c0 t).2 ≤ 1024 := by
  have hbit (b : Byte) : nextBitOf bpos b < 2 := Nat.mod_lt _ (by decide)
  have h4 := hbit t.b4
  have h5 := hbit t.b5
  have h6 := hbit t.b6
  unfold runInfo
  repeat' split
  all_goals dsimp only; omega

/-! ### Writes of a handle's slot -/

theorem slotAt_setHandleSlot_other {h : Handle} {b k : Nat} (hk : k < 16) (hother : b ≠ h.bucket.toNat ∨ k ≠ h.slot.toNat)
    (m : ContextMap) (v : Slot) : slotAt (setHandleSlot m h v) b k = slotAt m b k :=
  slotAt_setSlot_other m v (by rw [Ne, slotKey_inj hk h.slot.isLt]; omega)

/-! ### CM_UPDATE (R262) -/

/-- The state of the current bit of lane `l`. -/
def laneState (bpos : BitVec 3) (c0 : BitVec 9) (l : Nat) (m : ContextMap) : Byte :=
  slotByte (handleSlot m (laneAt m l).cur) (stateIndex bpos c0)

/-- The run candidate of lane `l`: 0 without byte histories. -/
def laneRun (c : Cfg) (bpos : BitVec 3) (c0 : BitVec 9) (l : Nat) (m : ContextMap) : Nat :=
  if c.cmByteHist then (runInfo bpos c0 (handleSlot m (laneAt m l).h0)).1 else 0

/-- The joint index of a state and a run candidate is one of the 768 of SM2. -/
theorem jointIndex_lt (st : Byte) (c : Cfg) (bpos : BitVec 3) (c0 : BitVec 9) (l : Nat) (m : ContextMap) :
    st.toNat * 3 + laneRun c bpos c0 l m < 768 := by
  have hst := st.isLt
  have hri : laneRun c bpos c0 l m ≤ 2 := by
    unfold laneRun
    split
    · exact (runInfo_bounds ..).1
    · omega
  omega

section
variable (c : Cfg) (y : Bool) (l : Nat) (st : Byte) (ri : Nat) (m : ContextMap)

/-- SM1 trained at the state of a lane's current bit, unless its input was neutral. -/
def trainSm1 : ContextMap := if st != 0 then setSm1 m l st.toNat (adapt16 (sm1At m l st.toNat) y c.smRate) else m

/-- SM2 trained at the joint index, unless its input was neutral. -/
def trainSm2 : ContextMap :=
  if c.cmByteHist && (st != 0 || ri != 0) then
    setSm2 m l (st.toNat * 3 + ri) (adapt16 (sm2At m l (st.toNat * 3 + ri)) y c.smRate)
  else m

theorem trainSm1_fields : trainSm1 c y l st m = { m with sm1 := (trainSm1 c y l st m).sm1 } := by
  unfold trainSm1
  split <;> rfl

theorem trainSm2_fields : trainSm2 c y l st ri m = { m with sm2 := (trainSm2 c y l st ri m).sm2 } := by
  unfold trainSm2
  split <;> rfl

theorem sm1At_trainSm1_same : sm1At (trainSm1 c y l st m) l st.toNat =
    if st = 0 then sm1At m l 0 else adapt16 (sm1At m l st.toNat) y c.smRate := by
  by_cases h : st = 0
  · subst h; rfl
  · rw [if_neg h, trainSm1, if_pos (bne_iff_ne.mpr h), sm1At_setSm1_same]

theorem sm1At_trainSm1_other {l' k : Nat} (hk : k < 256) (h : l' ≠ l ∨ k ≠ st.toNat) :
    sm1At (trainSm1 c y l st m) l' k = sm1At m l' k := by
  unfold trainSm1
  split
  · exact sm1At_setSm1_other m _ (by rw [Ne, sm1Key_inj hk st.isLt]; omega)
  · rfl

theorem sm2At_trainSm1 (l' k : Nat) : sm2At (trainSm1 c y l st m) l' k = sm2At m l' k := by
  rw [trainSm1_fields]; rfl

theorem sm2At_trainSm2_same : sm2At (trainSm2 c y l st ri m) l (st.toNat * 3 + ri) =
    if c.cmByteHist = true ∧ (st ≠ 0 ∨ ri ≠ 0) then adapt16 (sm2At m l (st.toNat * 3 + ri)) y c.smRate
    else sm2At m l (st.toNat * 3 + ri) := by
  simp only [trainSm2, Bool.and_eq_true, Bool.or_eq_true, bne_iff_ne]
  split
  · exact sm2At_setSm2_same ..
  · rfl

theorem sm2At_trainSm2_other (hj : st.toNat * 3 + ri < 768) {l' k : Nat} (hk : k < 768)
    (h : l' ≠ l ∨ k ≠ st.toNat * 3 + ri) : sm2At (trainSm2 c y l st ri m) l' k = sm2At m l' k := by
  unfold trainSm2
  split
  · exact sm2At_setSm2_other m _ (by rw [Ne, sm2Key_inj hk hj]; omega)
  · rfl

end

section
variable (c : Cfg) (bpos : BitVec 3) (c0 : BitVec 9) (y : Bool) (l : Nat) (m : ContextMap)

/-- The state maps after CM_UPDATE. -/
def laneMapsTrained : ContextMap :=
  trainSm2 c y l (laneState bpos c0 l m) (laneRun c bpos c0 l m) (trainSm1 c y l (laneState bpos c0 l m) m)

theorem laneMapsTrained_fields : laneMapsTrained c bpos c0 y l m =
    { m with sm1 := (trainSm1 c y l (laneState bpos c0 l m) m).sm1, sm2 := (laneMapsTrained c bpos c0 y l m).sm2 } := by
  rw [laneMapsTrained, trainSm2_fields, trainSm1_fields]

/-- CM_UPDATE trains the maps, and then writes the successor of the state into the slot, which training left alone. -/
theorem cmUpdate_eq : cmUpdate c bpos c0 y l m =
    setHandleSlot (laneMapsTrained c bpos c0 y l m) (laneAt m l).cur
      (setSlotByte (handleSlot m (laneAt m l).cur) (stateIndex bpos c0) (bhNext c.bhTable (laneState bpos c0 l m) y)) := by
  have hslot : handleSlot (laneMapsTrained c bpos c0 y l m) (laneAt m l).cur = handleSlot m (laneAt m l).cur := by
    rw [laneMapsTrained_fields]; rfl
  rw [← hslot]; rfl

theorem handleSlot_cmUpdate : handleSlot (cmUpdate c bpos c0 y l m) (laneAt m l).cur =
    setSlotByte (handleSlot m (laneAt m l).cur) (stateIndex bpos c0) (bhNext c.bhTable (laneState bpos c0 l m) y) := by
  rw [cmUpdate_eq, handleSlot_setHandleSlot]

theorem slotAt_cmUpdate_other {b k : Nat} (hk : k < 16)
    (hother : b ≠ (laneAt m l).cur.bucket.toNat ∨ k ≠ (laneAt m l).cur.slot.toNat) :
    slotAt (cmUpdate c bpos c0 y l m) b k = slotAt m b k := by
  rw [cmUpdate_eq, slotAt_setHandleSlot_other hk hother, laneMapsTrained_fields]
  rfl

theorem sm1At_cmUpdate (l' k : Nat) :
    sm1At (cmUpdate c bpos c0 y l m) l' k = sm1At (trainSm1 c y l (laneState bpos c0 l m) m) l' k := by
  rw [cmUpdate_eq, laneMapsTrained_fields]
  rfl

theorem sm2At_cmUpdate (l' k : Nat) : sm2At (cmUpdate c bpos c0 y l m) l' k =
    sm2At (laneMapsTrained c bpos c0 y l m) l' k := by
  rw [cmUpdate_eq]
  rfl

end

/-- Settles O36: the slot's clauses are those of one byte written, the maps' those of one entry trained. -/
theorem laneUpdateTrainsOneState : Obligations.LaneUpdateTrainsOneState := by
  intro c bpos c0 y l m h i st ri j t
  have hi : i < 7 := stateIndex_lt bpos c0
  have hj : j < 768 := jointIndex_lt st c bpos c0 l m
  have hslot : handleSlot t h = setSlotByte (handleSlot m h) i (bhNext c.bhTable st y) := handleSlot_cmUpdate ..
  refine ⟨?_, fun k hk hne => ?_, ?_, fun b k hk hother => slotAt_cmUpdate_other c bpos c0 y l m hk hother, ?_,
    fun l' k hk hother => ?_, ?_, fun l' k hk hother => ?_, ?_⟩
  · rw [hslot, slotByte_setSlotByte_same]
  · rw [hslot, slotByte_setSlotByte_other _ _ hk hi hne]
  · rw [hslot, setSlotByte_chk]
  · exact (sm1At_cmUpdate ..).trans (sm1At_trainSm1_same ..)
  · exact (sm1At_cmUpdate ..).trans (sm1At_trainSm1_other c y l st m hk hother)
  · rw [sm2At_cmUpdate, ← sm2At_trainSm1 c y l st m]
    exact sm2At_trainSm2_same ..
  · rw [sm2At_cmUpdate, ← sm2At_trainSm1 c y l st m]
    exact sm2At_trainSm2_other c y l st ri _ hj hk hother
  · have hfields : t = { m with slots := t.slots, sm1 := t.sm1, sm2 := t.sm2 } := cmUpdate_fields ..
    rw [hfields]
    exact ⟨rfl, rfl, rfl⟩

/-! ### CM_RUN_UPDATE (R264) -/

section
variable {byte : Byte} {t : Slot}

theorem runUpdate_of_none (h : t.b3 = 0) : runUpdate byte t = { t with b3 := 1, b4 := byte } := by simp [runUpdate, h]

theorem runUpdate_of_same (h : t.b3 ≠ 0) (hbyte : byte = t.b4) :
    runUpdate byte t = { t with b3 := BitVec.ofNat 8 (min (t.b3.toNat + 1) 255) } := by
  rw [runUpdate, if_neg h, if_pos hbyte]

theorem runUpdate_of_new (h : t.b3 ≠ 0) (hbyte : byte ≠ t.b4) :
    runUpdate byte t = { t with b3 := 1, b4 := byte, b5 := t.b4, b6 := t.b5 } := by
  rw [runUpdate, if_neg h, if_neg hbyte]

end

/-- Settles O37: the handle's slot takes the run update of what it held, and no other slot is written. -/
theorem runUpdateShiftsRecentBytes : Obligations.RunUpdateShiftsRecentBytes := by
  intro byte l m h a t z
  have hz : z = runUpdate byte a := handleSlot_setHandleSlot m h _
  refine ⟨fun hnone => ?_, fun hrun hsame => ?_, fun hrun hnew => ?_,
    fun b k hk hother => slotAt_setHandleSlot_other hk hother m _, rfl⟩
  · rw [hz, runUpdate_of_none hnone]
  · rw [hz, runUpdate_of_same hrun hsame]
    exact ⟨rfl, Nat.mod_eq_of_lt (by omega)⟩
  · rw [hz, runUpdate_of_new hrun hnew]

end Sys2Proof.Machine
end

section
/-! CM_MIX (43_contextmap.md R259 to R261): the run candidate, the inputs of a lane, and where they are pushed. -/

namespace Sys2Proof.Machine

/-! ### RUN_INFO (R261) -/

/-- A byte is below 256, so setting bit 8 adds 256. -/
theorem agrees_iff (bpos : BitVec 3) (c0 : BitVec 9) (b : Byte) :
    agrees bpos c0 b = true ↔ (256 + b.toNat) / 2 ^ (8 - bpos.toNat) = c0.toNat := by
  have hor : b.toNat ||| 256 = 256 + b.toNat := by
    rw [Nat.or_comm]
    exact (Nat.two_pow_add_eq_or_of_lt (i := 8) b.isLt 1).symm
  rw [agrees, hor, beq_iff_eq]

theorem nextBitOf_eq (bpos : BitVec 3) (b : Byte) :
    1 + nextBitOf bpos b = if b.getLsbD (7 - bpos.toNat) then 2 else 1 := by
  rw [nextBitOf, BitVec.getLsbD, Nat.testBit_eq_decide_div_mod_eq]
  obtain h | h := Nat.mod_two_eq_zero_or_one (b.toNat / 2 ^ (7 - bpos.toNat)) <;> simp [h]

section
variable {bpos : BitVec 3} {c0 : BitVec 9} {t : Slot}

theorem runInfo_of_none (h : t.b3 = 0) : runInfo bpos c0 t = (0, 0) := if_pos h

theorem runInfo_of_b4 (h : t.b3 ≠ 0) (h4 : agrees bpos c0 t.b4 = true) :
    runInfo bpos c0 t = (1 + nextBitOf bpos t.b4, min t.b3.toNat 8 * 128) := by
  rw [runInfo, if_neg h, if_pos h4]

theorem runInfo_of_b5 (h : t.b3 ≠ 0) (h4 : ¬ agrees bpos c0 t.b4 = true) (h5 : agrees bpos c0 t.b5 = true) :
    runInfo bpos c0 t = (1 + nextBitOf bpos t.b5, 128) := by
  rw [runInfo, if_neg h, if_neg h4, if_pos h5]

theorem runInfo_of_b6 (h : t.b3 ≠ 0) (h4 : ¬ agrees bpos c0 t.b4 = true) (h5 : ¬ agrees bpos c0 t.b5 = true)
    (h6 : agrees bpos c0 t.b6 = true) : runInfo bpos c0 t = (1 + nextBitOf bpos t.b6, 128) := by
  rw [runInfo, if_neg h, if_neg h4, if_neg h5, if_pos h6]

theorem runInfo_of_no_match (h4 : ¬ agrees bpos c0 t.b4 = true) (h5 : ¬ agrees bpos c0 t.b5 = true)
    (h6 : ¬ agrees bpos c0 t.b6 = true) : runInfo bpos c0 t = (0, 0) := by
  rw [runInfo, if_neg h4, if_neg h5, if_neg h6, ite_self]

end

/-! ### LANE_INPUTS (R260) -/

theorem smP_eq (e : Half) : smP e = max 1 (min 4094 (e.toNat / 16)) := by
  rw [smP, clampP, min_comm]; rfl

theorem stretch_bounds (p : Nat) : -2047 ≤ stretch p ∧ stretch p ≤ 2047 := by
  obtain ⟨hlo, hhi, -⟩ := stretch_isLeastNearest p
  exact ⟨hlo, hhi⟩

/-- An estimate that is 0 where it is neutral. -/
theorem neutral_or_stretch_bounds (neutral : Prop) [Decidable neutral] (p : Nat) :
    -2047 ≤ (if neutral then (0 : Int) else stretch p) ∧ (if neutral then (0 : Int) else stretch p) ≤ 2047 := by
  split
  · omega
  · exact stretch_bounds p

theorem runInput_bounds (ri : Nat) {mag : Nat} (h : mag ≤ 1024) : -2047 ≤ runInput ri mag ∧ runInput ri mag ≤ 2047 := by
  unfold runInput
  split
  · omega
  · split <;> omega

theorem rawInputs_bounds {c : Cfg} {bpos : BitVec 3} {c0 : BitVec 9} {m : ContextMap} {l : Nat} {v : Int}
    (h : v ∈ rawInputs c bpos c0 m l) : -2047 ≤ v ∧ v ≤ 2047 := by
  unfold rawInputs at h
  extract_lets st in1 run in3 at h
  have hin1 : -2047 ≤ in1 ∧ in1 ≤ 2047 := neutral_or_stretch_bounds ..
  have hin3 : -2047 ≤ in3 ∧ in3 ≤ 2047 := neutral_or_stretch_bounds ..
  have hin2 : -2047 ≤ runInput run.1 run.2 ∧ runInput run.1 run.2 ≤ 2047 := runInput_bounds _ (runInfo_bounds ..).2
  split at h
  · simp only [List.mem_cons, List.not_mem_nil, or_false] at h
    obtain rfl | rfl | rfl := h
    · exact hin1
    · exact hin2
    · exact hin3
  · obtain rfl := List.mem_singleton.mp h
    exact hin1

/-- SAT16 of a scaled value (R8, R260). -/
theorem sat16_scaleQ8_toInt (v : Int) (scale : Half) :
    (sat16 (scaleQ8 v scale)).toInt = max (-32768) (min 32767 (v * (scale.toNat : Int) / 256)) := by
  rw [sat16_toInt, scaleQ8, asr, clamp]
  split
  · omega
  · split <;> omega

theorem rawInputs_length (c : Cfg) (bpos : BitVec 3) (c0 : BitVec 9) (m : ContextMap) (l : Nat) :
    (rawInputs c bpos c0 m l).length = c.laneK := by
  unfold rawInputs Cfg.laneK
  cases c.cmByteHist <;> rfl

theorem laneInputs_getElem_toInt {c : Cfg} {bpos : BitVec 3} {c0 : BitVec 9} {m : ContextMap} {l i : Nat}
    (h : i < (laneInputs c bpos c0 m l).length) : ((laneInputs c bpos c0 m l)[i]).toInt =
      if (laneAt m l).valid then
        max (-32768) (min 32767 ((rawInputs c bpos c0 m l).getD i 0 * (m.scale.toNat : Int) / 256))
      else 0 := by
  by_cases hvalid : (laneAt m l).valid
  · have hi : i < (rawInputs c bpos c0 m l).length := by rwa [rawInputs_length, ← laneInputs_length c bpos c0 m l]
    simp only [laneInputs, if_pos hvalid, List.getElem_map, sat16_scaleQ8_toInt, List.getD_eq_getElem _ _ hi]
  · simp only [laneInputs, if_neg hvalid, List.getElem_replicate]
    rfl

/-! ### CM_MIX (R259) -/

/-- Where lists of one length stand in their concatenation. -/
theorem getElem?_flatMap_uniform {α β : Type} {f : α → List β} {n : Nat} (hf : ∀ a, (f a).length = n) {i : Nat} (hi : i < n) :
    ∀ (l : List α) (k : Nat), (l.flatMap f)[k * n + i]? = (l[k]?).bind fun a => (f a)[i]?
  | [], k => by simp
  | a :: l, 0 => by
    rw [List.flatMap_cons, List.getElem?_append_left (by rw [hf]; omega)]
    simp
  | a :: l, k + 1 => by
    have hplace : (k + 1) * n + i = n + (k * n + i) := by rw [Nat.succ_mul]; omega
    rw [List.flatMap_cons, List.getElem?_append_right (by rw [hf]; omega), hf, hplace, Nat.add_sub_cancel_left,
      getElem?_flatMap_uniform hf hi l k]
    simp

theorem cmInputs_getElem? {c : Cfg} {l i : Nat} (hl : l < c.cmLanes) (hi : i < c.laneK) (bpos : BitVec 3) (c0 : BitVec 9)
    (m : ContextMap) : (cmInputs c bpos c0 m)[l * c.laneK + i]? = (laneInputs c bpos c0 m l)[i]? := by
  rw [cmInputs, getElem?_flatMap_uniform (laneInputs_length c bpos c0 m) hi, List.getElem?_range hl]
  rfl

/-- In a session CM_MIX checks the room for its inputs alone. -/
theorem expectedError_cmMix {s : State} (h : s.mode ≠ .idle) : expectedError .cmMix s =
    if s.mixer.n.toNat < s.mixer.count.toNat + s.cfg.cmLanes * s.cfg.laneK then some .ovf else none := by
  have hmode : s.mode ∈ allowedModes .cmMix := mode_mem_session h
  simp [expectedError, hmode, phaseHolds, Instr.operandsLegal, pushedBy, needsCount]

theorem exec_cmMix {s : State} (hmode : s.mode ≠ .idle)
    (hroom : s.mixer.count.toNat + s.cfg.cmLanes * s.cfg.laneK ≤ s.mixer.n.toNat) :
    exec .cmMix s =
      .next { consume 1 s with mixer := pushInputs s.mixer (cmInputs s.cfg s.bpos s.c0 s.cm) } :=
  exec_of_ready (by rw [expectedError_cmMix hmode, if_neg (not_lt.mpr hroom)]) (available_zero s)

/-- What CM_MIX pushes is read back lane by lane. -/
theorem inputAt_cmMix {m : Mixer} {c : Cfg} (hroom : m.count.toNat + c.cmLanes * c.laneK ≤ m.n.toNat) {l i : Nat}
    (hl : l < c.cmLanes) (hi : i < c.laneK) (bpos : BitVec 3) (c0 : BitVec 9) (cm : ContextMap) :
    (inputAt (pushInputs m (cmInputs c bpos c0 cm)) (m.count.toNat + l * c.laneK + i)).toInt =
      if (laneAt cm l).valid then
        max (-32768) (min 32767 ((rawInputs c bpos c0 cm l).getD i 0 * (cm.scale.toNat : Int) / 256))
      else 0 := by
  have hlength := cmInputs_length c bpos c0 cm
  obtain ⟨-, hpushed, -, -⟩ := pushInputs_spec (cmInputs c bpos c0 cm) m (by rw [hlength]; omega)
  have hi' : i < (laneInputs c bpos c0 cm l).length := by rwa [laneInputs_length]
  have hget := cmInputs_getElem? hl hi bpos c0 cm
  rw [List.getElem?_eq_getElem hi'] at hget
  obtain ⟨hplace, hget⟩ := List.getElem?_eq_some_iff.mp hget
  rw [add_assoc, hpushed _ hplace, hget, laneInputs_getElem_toInt]

/-- Settles O33: the checks, RUN_INFO's cases, and the inputs as the pushes leave them. -/
theorem cmMixPushesEveryLane : Obligations.CmMixPushesEveryLane := by
  refine ⟨fun s => ⟨fun hidle => ?_, fun hmode hroom => ?_⟩, stateIndex_eq, fun bpos c0 t => ?_, ?_⟩
  · exact exec_of_error (expectedError_of_mode (by simp [allowedModes, hidle]))
  · exact exec_of_error (by rw [expectedError_cmMix hmode, if_pos hroom])
  · simp only [← nextBitOf_eq, ← agrees_iff]
    exact ⟨runInfo_of_none, runInfo_of_b4, runInfo_of_b5, runInfo_of_b6, runInfo_of_no_match⟩
  · intro s hmode hroom p st run in1 in2 in3 raw
    have hraw (l : Nat) : raw l = rawInputs s.cfg s.bpos s.c0 s.cm l := by
      simp only [rawInputs, smP_eq]; rfl
    have hlength := cmInputs_length s.cfg s.bpos s.c0 s.cm
    obtain ⟨hcount, -, hother, hfields⟩ :=
      pushInputs_spec (cmInputs s.cfg s.bpos s.c0 s.cm) s.mixer (by rw [hlength]; omega)
    rw [hlength] at hcount hother
    refine ⟨_, exec_cmMix hmode hroom, ?_, hcount, hother, fun l i hl hi => ?_, fun l v hv => ?_⟩
    · exact congrArg (fun m => { consume 1 s with mixer := m }) hfields
    · rw [hraw]
      exact inputAt_cmMix hroom hl hi s.bpos s.c0 s.cm
    · exact rawInputs_bounds (hraw l ▸ hv)

end Sys2Proof.Machine
end

section
/-! The frame of a coded bit in the context map (43_contextmap.md R262 to R264): the buckets and the state maps of no valid
lane stay. -/

namespace Sys2Proof.Machine

/-! ### What is no valid lane's -/

/-- A bucket that no valid lane's handle names, nor its hash with the next C0. -/
def ForeignBucket (s : State) (b : Nat) : Prop :=
  ∀ l, l < s.cfg.cmLanes → (laneAt s.cm l).valid = true →
    b ≠ (laneAt s.cm l).h0.bucket.toNat ∧ b ≠ (laneAt s.cm l).cur.bucket.toNat ∧
    ∀ y, b ≠ (hash s.cfg.cmLog2b (laneAt s.cm l).fp l (pushBit s.c0 y)).1.toNat

/-- A lane that is not valid, or that the unit does not have. -/
def ForeignLane (s : State) (l : Nat) : Prop := l < s.cfg.cmLanes → (laneAt s.cm l).valid = false

/-- The context map `t` holds what that of `s` holds in the foreign buckets and in the state maps of the foreign lanes. -/
structure LeavesForeign (s : State) (t : ContextMap) : Prop where
  slots : ∀ b, ForeignBucket s b → ∀ k, k < 16 → slotAt t b k = slotAt s.cm b k
  mru : ∀ b, ForeignBucket s b → mruAt t b = mruAt s.cm b
  sm1 : ∀ l, ForeignLane s l → ∀ k, k < 256 → sm1At t l k = sm1At s.cm l k
  sm2 : ∀ l, ForeignLane s l → ∀ k, k < 768 → sm2At t l k = sm2At s.cm l k

theorem LeavesForeign.refl (s : State) : LeavesForeign s s.cm :=
  ⟨fun _ _ _ _ => rfl, fun _ _ => rfl, fun _ _ _ _ => rfl, fun _ _ _ _ => rfl⟩

theorem mem_validLanes {m : ContextMap} {n l : Nat} : l ∈ validLanes m n ↔ l < n ∧ (laneAt m l).valid = true := by
  simp [validLanes]

/-! ### The updates of one valid lane -/

section
variable {s : State} {m : ContextMap} (h : LeavesForeign s m) {l : Nat} (hl : l < s.cfg.cmLanes)
  (hvalid : (laneAt s.cm l).valid = true)
include h hl hvalid

/-- R262: CM_UPDATE writes the slot of LANE_CUR and the lane's own map entries. -/
theorem LeavesForeign.cmUpdate (hlane : laneAt m l = laneAt s.cm l) (y : Bool) :
    LeavesForeign s (cmUpdate s.cfg s.bpos s.c0 y l m) := by
  have own {l' : Nat} (hl' : ForeignLane s l') : l' ≠ l := by
    rintro rfl
    exact absurd (hvalid.symm.trans (hl' hl)) (by decide)
  refine ⟨fun b hb k hk => ?_, fun b hb => ?_, fun l' hl' k hk => ?_, fun l' hl' k hk => ?_⟩
  · obtain ⟨-, hcur, -⟩ := hb l hl hvalid
    rw [slotAt_cmUpdate_other _ _ _ _ _ _ hk (.inl (hlane ▸ hcur)), h.slots b hb k hk]
  · rw [← h.mru b hb, cmUpdate_fields]; rfl
  · rw [sm1At_cmUpdate, sm1At_trainSm1_other _ _ _ _ _ hk (.inl (own hl')), h.sm1 l' hl' k hk]
  · rw [sm2At_cmUpdate, laneMapsTrained, sm2At_trainSm2_other _ _ _ _ _ _ (jointIndex_lt ..) hk (.inl (own hl')),
      sm2At_trainSm1, h.sm2 l' hl' k hk]

/-- R263: the resolution of a lane writes the bucket of its hash with the new C0. -/
theorem LeavesForeign.resolveLane (hw : s.cfg.wf = true) (hfp : (laneAt m l).fp = (laneAt s.cm l).fp) (y : Bool) :
    LeavesForeign s (resolveLane s.cfg (pushBit s.c0 y) l m) := by
  obtain ⟨-, hthree, hfifteen⟩ := contextMap_bounds hw
  have hfound := find_found hthree (hash s.cfg.cmLog2b (laneAt m l).fp l (pushBit s.c0 y)).1.toNat
    (hash s.cfg.cmLog2b (laneAt m l).fp l (pushBit s.c0 y)).2 m
  have away {b : Nat} (hb : ForeignBucket s b) :
      b ≠ (hash s.cfg.cmLog2b (laneAt m l).fp l (pushBit s.c0 y)).1.toNat := by
    obtain ⟨-, -, hhash⟩ := hb l hl hvalid
    exact hfp ▸ hhash y
  refine ⟨fun b hb k hk => ?_, fun b hb => ?_, fun l' hl' k hk => ?_, fun l' hl' k hk => ?_⟩
  · exact (hfound.slotAt_other hfifteen hk (.inl (away hb))).trans (h.slots b hb k hk)
  · exact (hfound.mruAt_other (away hb)).trans (h.mru b hb)
  · rw [← h.sm1 l' hl' k hk, Machine.resolveLane, lookup_fields]; rfl
  · rw [← h.sm2 l' hl' k hk, Machine.resolveLane, lookup_fields]; rfl

/-- R264: CM_RUN_UPDATE writes the slot of LANE_H0. -/
theorem LeavesForeign.cmRunUpdate (hlane : laneAt m l = laneAt s.cm l) (byte : Byte) :
    LeavesForeign s (cmRunUpdate byte l m) := by
  refine { h with slots := fun b hb k hk => ?_ }
  obtain ⟨hh0, -, -⟩ := hb l hl hvalid
  exact (slotAt_setHandleSlot_other hk (.inl (hlane ▸ hh0)) m _).trans (h.slots b hb k hk)

end

/-! ### All the valid lanes -/

theorem lanesTrained_leavesForeign (s : State) (y : Bool) : LeavesForeign s (lanesTrained s y) := by
  refine (foldl_keeps (fun m => m.lanes = s.cm.lanes ∧ LeavesForeign s m) _ _ s.cm ⟨rfl, .refl s⟩ ?_).2
  rintro m l hl ⟨hlanes, h⟩
  obtain ⟨hl, hvalid⟩ := mem_validLanes.mp hl
  refine ⟨?_, h.cmUpdate hl hvalid (laneAt_congr hlanes l) y⟩
  rw [cmUpdate_fields]
  exact hlanes

theorem lanesResolved_leavesForeign {s : State} (hw : s.cfg.wf = true) (y : Bool) {n : Nat} (hn : n ≤ s.cfg.cmLanes) :
    LeavesForeign s (lanesResolved s.cfg (pushBit s.c0 y) n (lanesTrained s y)) := by
  induction n with
  | zero => exact lanesTrained_leavesForeign s y
  | succ n ih =>
    have h := ih (by omega)
    obtain ⟨-, hfp, -, -⟩ := laneAt_lanesResolved_keeps s.cfg (pushBit s.c0 y) (lanesTrained s y) n n
    rw [laneAt_lanesTrained] at hfp
    rw [lanesResolved_succ, laneAt_lanesTrained]
    split
    · next hvalid => exact h.resolveLane hn hvalid hw hfp y
    · exact h

theorem lanesClosed_leavesForeign (s : State) (byte : Byte) (y : Bool) :
    LeavesForeign s (lanesClosed s.cfg byte (lanesTrained s y)) := by
  have hlanes : (lanesTrained s y).lanes = s.cm.lanes := by
    rw [← cmUpdateAll_eq]
    exact (cmUpdateAll_fields ..).1
  have h := (foldl_keeps (fun m => m.lanes = s.cm.lanes ∧ LeavesForeign s m) (fun m l => cmRunUpdate byte l m)
    (validLanes (lanesTrained s y) s.cfg.cmLanes) _ ⟨hlanes, lanesTrained_leavesForeign s y⟩ ?_).2
  · exact ⟨h.slots, h.mru, h.sm1, h.sm2⟩
  · rintro m l hl ⟨hlanes, h⟩
    obtain ⟨hl, hvalid⟩ := mem_validLanes.mp hl
    rw [laneAt_lanesTrained] at hvalid
    exact ⟨hlanes, h.cmRunUpdate hl hvalid (laneAt_congr hlanes l) byte⟩

/-! ### The coded bit -/

theorem BitAdvances.leavesForeign {y : Bool} {s t : State} (h : BitAdvances y s t) (hw : s.cfg.wf = true) :
    LeavesForeign s t.cm := by
  by_cases hlast : s.bpos = 7
  · obtain ⟨-, -, -, hcm⟩ := h.boundary hlast
    exact hcm ▸ lanesClosed_leavesForeign s _ y
  by_cases hresolve : s.bpos = 1 ∨ s.bpos = 4
  · exact h.resolved hresolve ▸ lanesResolved_leavesForeign hw y le_rfl
  · obtain ⟨hne1, hne4⟩ := not_or.mp hresolve
    exact h.trained hlast hne1 hne4 ▸ lanesTrained_leavesForeign s y

/-- ENC_BIT and DEC_BIT that pass their checks code a bit. -/
theorem codesBit_of_ready {i : Instr} (hi : i = .decBit ∨ ∃ imm, i = .encBit imm) {s : State}
    (hnone : expectedError i s = none) : ∃ y, CodesBit i s y := by
  obtain rfl | ⟨imm, rfl⟩ := hi
  · exact ⟨_, .inr ⟨rfl, rfl⟩⟩
  · obtain ⟨-, -, hlegal, -, -⟩ := (expectedError_none_iff _ s).mp hnone
    obtain rfl | rfl := bit_cases ((within_iff 0 1 imm.toNat).mp hlegal).2
    · exact ⟨false, .inl rfl⟩
    · exact ⟨true, .inl rfl⟩

/-- Settles O20: a command that waits or faults leaves the whole map, and one that codes a bit leaves what is foreign. -/
theorem codingLeavesOtherContexts : Obligations.CodingLeavesOtherContexts := by
  intro i s t hw hi hexec
  have h : LeavesForeign s t.cm := by
    obtain rfl | ⟨code, -, rfl⟩ | ⟨hnone, rfl⟩ := exec_outcome hexec
    · exact .refl t
    · exact .refl s
    · obtain ⟨y, hcodes⟩ := codesBit_of_ready hi hnone
      exact (effectOf_advances hcodes i.words).leavesForeign hw
  exact ⟨fun b hb => ⟨h.slots b hb, h.mru b hb⟩, fun l hl => ⟨h.sm1 l hl, h.sm2 l hl⟩⟩

end Sys2Proof.Machine
end

section
/-! The control commands of the mixer and the APM (44_mixer_apm.md R302, R310 to R312, R314 to R316), and MX_ADD (R301). -/

namespace Sys2Proof.Machine

/-! ### Control commands (60_exceptions.md R404) -/

/-- A command that runs in every mode, pushes nothing, needs no full input vector and no archive byte: its phase and its
range are all it can fail. -/
structure ControlCommand (i : Instr) : Prop where
  modes : allowedModes i = [.idle, .enc, .dec] := by exact rfl
  pushed : ∀ c, pushedBy c i = none := by exact fun _ => rfl
  count : needsCount i = false := by exact rfl
  bytes : ∀ s, bytesNeeded s i = 0 := by exact fun _ => rfl

section
variable {i : Instr} (hi : ControlCommand i) {s : State}
include hi

theorem ControlCommand.mode_mem : s.mode ∈ allowedModes i := hi.modes ▸ mode_mem_every _

theorem ControlCommand.exec_of_phase (hphase : phaseHolds s i = false) : exec i s = .next (faulted .phase i s) :=
  exec_of_error (by simp [expectedError, hi.mode_mem, hphase])

/-- In its phase a control command has its effect when its operands are in range, and else raises E_RANGE. -/
theorem ControlCommand.exec_eq {legal : Prop} [Decidable legal] (hlegal : i.operandsLegal s.cfg = true ↔ legal)
    (hphase : phaseHolds s i = true) :
    exec i s = if legal then .next (effectOf i (consume i.words s)) else .next (faulted .range i s) := by
  split
  · next h =>
    have hnone : expectedError i s = none :=
      (expectedError_none_iff i s).mpr
        ⟨hi.mode_mem, hphase, hlegal.mpr h, by simp [hi.pushed], by simp [hi.count]⟩
    exact exec_of_ready hnone (hi.bytes s ▸ available_zero s)
  · next h => exact exec_of_error (by simp [expectedError, hi.mode_mem, hphase, hlegal.not.mpr h])

end

theorem within_zero_iff (hi v : Nat) : within 0 hi v = true ↔ v ≤ hi := by simp [within_iff]

/-! ### The mixer's control commands (R302, R310 to R312) -/

section
variable (imm : Half) (t : State)

theorem effectOf_mxSetN : effectOf (.mxSetN imm) t = { t with mixer := { t.mixer with n := imm } } := by
  rw [effectOf, ofNat_immNat]

theorem effectOf_mxSetActive :
    effectOf (.mxSetActive imm) t = { t with mixer := { t.mixer with active := imm.setWidth 4 } } := by
  rw [effectOf, immNat, BitVec.ofNat_toNat]

theorem effectOf_mxSetLr : effectOf (.mxSetLr imm) t = { t with mixer := { t.mixer with lr := imm.setWidth 8 } } := by
  rw [effectOf, immNat, BitVec.ofNat_toNat]

theorem effectOf_apmSetCtx : effectOf (.apmSetCtx imm) t = { t with apm := { t.apm with ctx := imm } } := by
  rw [effectOf, ofNat_immNat]

theorem effectOf_apmSetRate : effectOf (.apmSetRate imm) t = { t with apm := { t.apm with rate := imm.setWidth 4 } } := by
  rw [effectOf, immNat, BitVec.ofNat_toNat]

end

theorem exec_mxSelect (bank : Byte) (imm : Half) (s : State) : exec (.mxSelect bank imm) s =
    if bank.toNat < s.cfg.mxNsel ∧ imm.toNat < s.cfg.mxKsel then
      .next { consume 1 s with mixer := { s.mixer with sel := s.mixer.sel.set bank.toNat imm } }
    else .next (faulted .range (.mxSelect bank imm) s) :=
  ControlCommand.exec_eq {} (by simp [Instr.operandsLegal]) rfl

theorem exec_mxSetN (imm : Half) (s : State) : exec (.mxSetN imm) s =
    if s.mixer.count ≠ 0 then .next (faulted .phase (.mxSetN imm) s)
    else if imm.toNat ≤ s.cfg.mxMaxN then .next { consume 1 s with mixer := { s.mixer with n := imm } }
    else .next (faulted .range (.mxSetN imm) s) := by
  have hi : ControlCommand (.mxSetN imm) := {}
  split
  · next hcount => exact hi.exec_of_phase (by simpa [phaseHolds] using hcount)
  · next hcount =>
    rw [hi.exec_eq (within_zero_iff ..) (by simpa [phaseHolds] using hcount), effectOf_mxSetN]
    rfl

theorem exec_mxSetActive (imm : Half) (s : State) : exec (.mxSetActive imm) s =
    if s.mixer.count ≠ 0 then .next (faulted .phase (.mxSetActive imm) s)
    else if 1 ≤ imm.toNat ∧ imm.toNat ≤ s.cfg.mxNsel then
      .next { consume 1 s with mixer := { s.mixer with active := imm.setWidth 4 } }
    else .next (faulted .range (.mxSetActive imm) s) := by
  have hi : ControlCommand (.mxSetActive imm) := {}
  split
  · next hcount => exact hi.exec_of_phase (by simpa [phaseHolds] using hcount)
  · next hcount =>
    rw [hi.exec_eq (within_iff ..) (by simpa [phaseHolds] using hcount), effectOf_mxSetActive]
    rfl

theorem exec_mxSetLr (imm : Half) (s : State) : exec (.mxSetLr imm) s =
    if imm.toNat ≤ 255 then .next { consume 1 s with mixer := { s.mixer with lr := imm.setWidth 8 } }
    else .next (faulted .range (.mxSetLr imm) s) := by
  have hi : ControlCommand (.mxSetLr imm) := {}
  rw [hi.exec_eq (within_zero_iff ..) rfl, effectOf_mxSetLr]
  rfl

/-- Settles O40: each command is its row of R404; an accepted MX_NSEL is at most 8, so MX_ACTIVE does not wrap. -/
theorem mixerControlCommandsWriteTheirRegister : Obligations.MixerControlCommandsWriteTheirRegister := by
  refine fun imm bank s hw =>
    ⟨exec_mxSelect bank imm s, exec_mxSetN imm s, exec_mxSetActive imm s, fun _ hle => ?_, exec_mxSetLr imm s⟩
  have hsel : s.cfg.mxNsel ≤ 8 := by
    simp only [Cfg.wf, Cfg.scalarsOk, Bool.and_eq_true, within_iff] at hw
    omega
  rw [BitVec.toNat_setWidth, Nat.mod_eq_of_lt (by omega)]

/-! ### The APM's control commands (R314 to R316) -/

theorem exec_apmSetCtx (imm : Half) (s : State) : exec (.apmSetCtx imm) s =
    if imm.toNat < s.cfg.apmNctx then .next { consume 1 s with apm := { s.apm with ctx := imm } }
    else .next (faulted .range (.apmSetCtx imm) s) := by
  have hi : ControlCommand (.apmSetCtx imm) := {}
  rw [hi.exec_eq decide_eq_true_iff rfl, effectOf_apmSetCtx]
  rfl

theorem exec_apmSetRate (imm : Half) (s : State) : exec (.apmSetRate imm) s =
    if 1 ≤ imm.toNat ∧ imm.toNat ≤ 15 then .next { consume 1 s with apm := { s.apm with rate := imm.setWidth 4 } }
    else .next (faulted .range (.apmSetRate imm) s) := by
  have hi : ControlCommand (.apmSetRate imm) := {}
  rw [hi.exec_eq (within_iff ..) rfl, effectOf_apmSetRate]
  rfl

theorem immBit_eq {imm : Half} (h : imm.toNat ≤ 1) : immBit imm = decide (imm.toNat = 1) := by
  obtain rfl | rfl := bit_cases h <;> rfl

theorem exec_apmEnable (imm : Half) (s : State) : exec (.apmEnable imm) s =
    if imm.toNat ≤ 1 then .next { consume 1 s with apm := { s.apm with enabled := decide (imm.toNat = 1) } }
    else .next (faulted .range (.apmEnable imm) s) := by
  have hi : ControlCommand (.apmEnable imm) := {}
  rw [hi.exec_eq (within_zero_iff ..) rfl]
  split
  · next h => rw [effectOf, immBit_eq h]; rfl
  · rfl

/-! ### The APM switched off (R305, R309) -/

theorem predict_of_disabled (m : Mixer) {a b : Apm} (ha : a.enabled = false) (hb : b.enabled = false) :
    predict m a = predict m b := by
  simp [predict, ha, hb]

theorem predict_pFinal_of_disabled (m : Mixer) {a : Apm} (h : a.enabled = false) :
    (predict m a).pFinal = (predict m a).pMix := by
  simp [predict, h]

theorem trainApm_of_disabled (pr : Prediction) (y : Bool) {a : Apm} (h : a.enabled = false) : trainApm pr y a = a := by
  simp [trainApm, h]

/-- Settles O41: the three rows of R404, and the branches of prediction and training that APM_EN = 0 takes. -/
theorem apmControlCommandsWriteTheirRegister : Obligations.ApmControlCommandsWriteTheirRegister :=
  ⟨fun imm s => ⟨exec_apmSetCtx imm s, exec_apmSetRate imm s, exec_apmEnable imm s⟩, fun m _ _ pr y ha hb =>
    ⟨predict_of_disabled m ha hb, predict_pFinal_of_disabled m ha, trainApm_of_disabled pr y ha⟩⟩

/-! ### MX_ADD (R301) -/

/-- A sign-extended operand fits the 16-bit input it was widened from. -/
theorem simmInput_eq (imm : Half) : simmInput imm = imm := by
  rw [simmInput, BitVec.toInt_signExtend_of_le (by decide), BitVec.ofInt_toInt]

/-- In a session MX_ADD checks the room for its input alone. -/
theorem expectedError_mxAdd {s : State} (h : s.mode ≠ .idle) (imm : Half) : expectedError (.mxAdd imm) s =
    if s.mixer.n.toNat < s.mixer.count.toNat + 1 then some .ovf else none := by
  have hmode : s.mode ∈ allowedModes (.mxAdd imm) := mode_mem_session h
  simp [expectedError, hmode, phaseHolds, Instr.operandsLegal, pushedBy, needsCount]

theorem exec_mxAdd {s : State} (hmode : s.mode ≠ .idle) (hroom : s.mixer.count.toNat + 1 ≤ s.mixer.n.toNat) (imm : Half) :
    exec (.mxAdd imm) s = .next { consume 1 s with mixer := pushInputs s.mixer [imm] } := by
  have h := exec_of_ready (i := .mxAdd imm) (by rw [expectedError_mxAdd hmode, if_neg (not_lt.mpr hroom)]) (available_zero s)
  rw [effectOf, simmInput_eq] at h
  exact h

/-- Settles O39: the two faults, and the push of one value at MX_COUNT. -/
theorem mxAddPushesItsOperand : Obligations.MxAddPushesItsOperand := by
  refine ⟨fun imm s => ⟨fun hidle => ?_, fun hmode hroom => ?_⟩, fun imm s hmode hroom => ?_⟩
  · exact exec_of_error (expectedError_of_mode (by simp [allowedModes, hidle]))
  · exact exec_of_error (by rw [expectedError_mxAdd hmode, if_pos hroom])
  · obtain ⟨hcount, hpushed, hother, hfields⟩ := pushInputs_spec [imm] s.mixer (hroom.trans_lt s.mixer.n.isLt)
    refine ⟨_, exec_mxAdd hmode hroom imm, ?_, hcount, ?_, fun k hk => hother k ?_⟩
    · exact congrArg (fun m => { consume 1 s with mixer := m }) hfields
    · rw [BitVec.toInt_signExtend_of_le (by decide)]
      exact congrArg BitVec.toInt (hpushed 0 Nat.one_pos)
    · rw [List.length_singleton]
      omega

end Sys2Proof.Machine
end

section
/-! The mixer's prediction (44_mixer_apm.md R303 to R305): the exact sums, their bound, and the layers' outputs. -/

namespace Sys2Proof.Machine

/-! ### The arithmetic of R8 in Mathlib's terms -/

theorem clamp_eq_max_min {lo hi : Int} (h : lo ≤ hi) (v : Int) : clamp v lo hi = max lo (min hi v) := by
  unfold clamp
  split
  · omega
  · split <;> omega

theorem asr_eq (v : Int) (n : Nat) : asr v n = v / 2 ^ n := by simp [asr]

theorem sumTo_eq_sum (f : Nat → Int) (n : Nat) : sumTo f n = ∑ k ∈ Finset.range n, f k := by
  induction n with
  | zero => rfl
  | succ n ih => rw [sumTo, ih, Finset.sum_range_succ]

/-! ### The first layer (R303) -/

theorem dot_eq_sum (m : Mixer) (j : Nat) : dot m j =
    ∑ k ∈ Finset.range m.n.toNat, (inputAt m k).toInt * (weightAt m j (selAt m j) k).toInt :=
  sumTo_eq_sum _ _

/-- A product of an s16 and an s32 is at most 2^46 in size. -/
theorem abs_input_mul_weight_le (x : Half) (w : Word) : |x.toInt * w.toInt| ≤ 2 ^ 46 := by
  have hx : |x.toInt| ≤ 2 ^ 15 := abs_le.mpr ⟨BitVec.le_toInt x, (BitVec.toInt_lt (x := x)).le⟩
  have hw : |w.toInt| ≤ 2 ^ 31 := abs_le.mpr ⟨BitVec.le_toInt w, (BitVec.toInt_lt (x := w)).le⟩
  calc |x.toInt * w.toInt| = |x.toInt| * |w.toInt| := abs_mul ..
    _ ≤ 2 ^ 15 * 2 ^ 31 := by gcongr
    _ = 2 ^ 46 := by norm_num

/-- Fewer than 2^16 products of at most 2^46 in size sum to less than 2^62. -/
theorem dot_natAbs_lt (m : Mixer) (j : Nat) : (dot m j).natAbs < 2 ^ 62 := by
  have hn := m.n.isLt
  have hbound : |dot m j| ≤ m.n.toNat * 2 ^ 46 := by
    calc |dot m j| ≤ ∑ k ∈ Finset.range m.n.toNat, |(inputAt m k).toInt * (weightAt m j (selAt m j) k).toInt| :=
          dot_eq_sum m j ▸ Finset.abs_sum_le_sum_abs _ _
      _ ≤ ∑ _k ∈ Finset.range m.n.toNat, (2 ^ 46 : Int) := Finset.sum_le_sum fun k _ => abs_input_mul_weight_le _ _
      _ = m.n.toNat * 2 ^ 46 := by rw [Finset.sum_const, Finset.card_range, nsmul_eq_mul]
  rw [Int.abs_eq_natAbs] at hbound
  omega

theorem layerOne_eq (m : Mixer) (j : Nat) :
    layerOne m j = max (-2047) (min 2047 (dot m j / 2 ^ 16 * (m.scale.toNat : Int) / 2 ^ 8)) := by
  rw [layerOne, clamp_eq_max_min (by decide), scaleQ8, asr_eq, asr_eq]

/-! ### The second layer (R304) -/

theorem mixOf_of_one {m : Mixer} (h : m.active = 1) : mixOf m = layerOne m 0 := if_pos h

theorem mixOf_of_many {m : Mixer} (h : 1 < m.active.toNat) : mixOf m =
    max (-2047) (min 2047 ((∑ j ∈ Finset.range m.active.toNat, layerOne m j * (blendAt m j).toInt) / 2 ^ 16)) := by
  have hne : m.active ≠ 1 := fun h1 => absurd h (by rw [h1]; decide)
  rw [mixOf, if_neg hne, clamp_eq_max_min (by decide), asr_eq, sumTo_eq_sum]

theorem mixOf_bounds (m : Mixer) : -2047 ≤ mixOf m ∧ mixOf m ≤ 2047 := by
  unfold mixOf
  split <;> exact clamp_bounds _ _ _ (by decide)

/-- Settles O42: the model's sums are the exact ones, and squash and the clamps bound what they give. -/
theorem predictionsStayInBounds : Obligations.PredictionsStayInBounds := by
  intro m a pr dotJ s
  have hdot (j : Nat) : dot m j = dotJ j := dot_eq_sum m j
  have hlayer : layerOne m = s := funext fun j => (layerOne_eq m j).trans (by rw [hdot])
  have hmix : pr.sMix = mixOf m := rfl
  have hmixBounds := mixOf_bounds m
  have hfinal := predict_pFinal_bounds m a
  have hpMix := squash_bounds pr.sMix
  refine ⟨fun j => hdot j ▸ dot_natAbs_lt m j, ?_, ?_, fun hone => ?_, fun hmany => ?_, rfl,
    predict_pFinal_of_disabled m, hfinal.1, hfinal.2, hpMix.1, hpMix.2, hmixBounds.1, hmixBounds.2⟩
  · rw [← hlayer]; rfl
  · rw [← hlayer]; exact List.map_map
  · rw [hmix, mixOf_of_one hone, hlayer]
  · rw [hmix, mixOf_of_many hmany, hlayer]

end Sys2Proof.Machine
end

section
/-! The mixer's training (44_mixer_apm.md R306, R307): the weights of a bank, of all active banks, and of the second layer. -/

namespace Sys2Proof.Machine

/-! ### The rounded, saturating step of a weight -/

theorem trained_toInt (w : Word) (x err : Int) :
    (trained w x err).toInt = max (-2 ^ 31) (min (2 ^ 31 - 1) (w.toInt + (x * err + 32768) / 2 ^ 16)) := by
  rw [trained, sat32_toInt, clamp_eq_max_min (by decide), asr_eq]
  norm_num

theorem trainError_eq (m : Mixer) (y : Bool) (p : Nat) : trainError m y p =
    max (-32767) (min 32767 (((if y then 4096 else 0) - (p : Int)) * (m.lr.toNat : Int))) := by
  rw [trainError, clamp_eq_max_min (by decide)]
  cases y <;> rfl

/-! ### The first layer (R306) -/

theorem selAt_lt (m : Mixer) (j : Nat) : selAt m j < 65536 := BitVec.isLt _

section
variable (j : Nat) (err : Int) (m : Mixer)

/-- Bank `j` with its weights below `n` trained. -/
def trainBelow (n : Nat) : Mixer := (List.range n).foldl (trainWeight j err) m

theorem trainBelow_succ (n : Nat) : trainBelow j err m (n + 1) = trainWeight j err (trainBelow j err m n) n := by
  simp [trainBelow, List.range_succ]

theorem trainBelow_fields (n : Nat) : trainBelow j err m n = { m with weights := (trainBelow j err m n).weights } := by
  induction n with
  | zero => rfl
  | succ n ih => rw [trainBelow_succ, trainWeight, setWeight, ih]

end

/-- A weight after the update of weight `k` of bank `j`. -/
theorem weightAt_trainWeight (j : Nat) (err : Int) (m : Mixer) {k : Nat} (hk : k < 65536) {j' c k' : Nat} (hc : c < 65536)
    (hk' : k' < 65536) : weightAt (trainWeight j err m k) j' c k' =
      if j' = j ∧ c = selAt m j ∧ k' = k then trained (weightAt m j' c k') (inputAt m k').toInt err
      else weightAt m j' c k' := by
  split
  · next h =>
    obtain ⟨rfl, rfl, rfl⟩ := h
    exact weightAt_setWeight_same ..
  · next h => exact weightAt_setWeight_other m _ (mt (weightKey_inj hc hk' (selAt_lt m j) hk).mp h)

/-- Each weight below `n` is trained once, from the value it had before: the updates of the others do not reach it. -/
theorem weightAt_trainBelow (j : Nat) (err : Int) (m : Mixer) {n : Nat} (hn : n ≤ 65536) {j' c k : Nat} (hc : c < 65536)
    (hk : k < 65536) : weightAt (trainBelow j err m n) j' c k =
      if j' = j ∧ c = selAt m j ∧ k < n then trained (weightAt m j' c k) (inputAt m k).toInt err
      else weightAt m j' c k := by
  induction n with
  | zero => simp [trainBelow]
  | succ n ih =>
    have hsel : selAt (trainBelow j err m n) j = selAt m j := by rw [trainBelow_fields]; rfl
    have hinput : inputAt (trainBelow j err m n) k = inputAt m k := by rw [trainBelow_fields]; rfl
    rw [trainBelow_succ, weightAt_trainWeight _ _ _ (by omega) hc hk, hsel, hinput, ih (by omega)]
    by_cases hlast : k = n
    · simp [hlast]
    · have hlt : k < n + 1 ↔ k < n := by omega
      simp only [hlast, hlt, and_false, if_false]

section
variable (pr : Prediction) (y : Bool) (m : Mixer)

/-- The banks below `a` with their selected vectors trained. -/
def trainBanks (a : Nat) : Mixer := (List.range a).foldl (trainBank pr y) m

theorem trainBanks_succ (a : Nat) : trainBanks pr y m (a + 1) = trainBank pr y (trainBanks pr y m a) a := by
  simp [trainBanks, List.range_succ]

theorem trainBanks_fields (a : Nat) : trainBanks pr y m a = { m with weights := (trainBanks pr y m a).weights } := by
  induction a with
  | zero => rfl
  | succ a ih => rw [trainBanks_succ, trainBank_fields, ih]

/-- The selected weights below MX_N of each bank below `a` are trained by their bank's error, and no others. -/
theorem weightAt_trainBanks (a : Nat) {j c k : Nat} (hc : c < 65536) (hk : k < 65536) : weightAt (trainBanks pr y m a) j c k =
    if j < a ∧ c = selAt m j ∧ k < m.n.toNat then
      trained (weightAt m j c k) (inputAt m k).toInt (trainError m y (pr.p.getD j 0))
    else weightAt m j c k := by
  induction a with
  | zero => simp [trainBanks]
  | succ a ih =>
    have hfields := trainBanks_fields pr y m a
    have hbank : trainBank pr y (trainBanks pr y m a) a =
        trainBelow a (trainError m y (pr.p.getD a 0)) (trainBanks pr y m a) m.n.toNat := by
      rw [trainBank, hfields]; rfl
    have hsel : selAt (trainBanks pr y m a) a = selAt m a := by rw [hfields]; rfl
    have hinput : inputAt (trainBanks pr y m a) k = inputAt m k := by rw [hfields]; rfl
    rw [trainBanks_succ, hbank, weightAt_trainBelow _ _ _ m.n.isLt.le hc hk, hsel, hinput, ih]
    by_cases hlast : j = a
    · simp [hlast]
    · have hlt : j < a + 1 ↔ j < a := by omega
      simp only [hlast, hlt, false_and, if_false]

/-! ### The second layer (R307) -/

theorem weightAt_trainMixer (j c k : Nat) :
    weightAt (trainMixer pr y m) j c k = weightAt (trainBanks pr y m m.active.toNat) j c k := by
  unfold trainMixer trainSecond
  split <;> rfl

theorem trainMixer_blend : (trainMixer pr y m).blend =
    if 1 < m.active.toNat then
      mapFrom (fun j f => if j < m.active.toNat then trained f (pr.s.getD j 0) (trainError m y pr.pMix) else f) 0 m.blend
    else m.blend := by
  unfold trainMixer trainSecond
  rw [trainFirst_fields]
  dsimp only
  split <;> rfl

theorem blendAt_trainMixer_active {j : Nat} (hmany : 1 < m.active.toNat) (hj : j < m.active.toNat) (hlen : j < m.blend.length) :
    blendAt (trainMixer pr y m) j = trained (blendAt m j) (pr.s.getD j 0) (trainError m y pr.pMix) := by
  simp [blendAt, trainMixer_blend, hmany, List.getD_eq_getElem?_getD, mapFrom_getElem, hlen, hj]

theorem blendAt_trainMixer_inactive {j : Nat} (h : m.active.toNat ≤ 1 ∨ m.active.toNat ≤ j) :
    blendAt (trainMixer pr y m) j = blendAt m j := by
  rw [blendAt, trainMixer_blend]
  split
  · have hj : ¬ j < m.active.toNat := by omega
    cases hget : m.blend[j]? <;> simp [blendAt, List.getD_eq_getElem?_getD, mapFrom_get, hget, hj]
  · rfl

end

/-- Settles O43: both layers' updates, entry by entry, with R306's step written in whole numbers. -/
theorem mixerTrainsTheSelectedWeights : Obligations.MixerTrainsTheSelectedWeights := by
  intro m a y pr t err moved
  have herr (p : Nat) : trainError m y p = err p := trainError_eq m y p
  have hmoved (w : Word) (x e : Int) : (trained w x e).toInt = moved w x e := trained_toInt w x e
  have hn := m.n.isLt
  refine ⟨fun j k hj hk => ?_, fun j c k hc hk hother => ?_, fun j hmany hj hlen => ?_,
    fun j h => blendAt_trainMixer_inactive pr y m h, trainMixer_fields pr y m⟩
  · rw [weightAt_trainMixer, weightAt_trainBanks _ _ _ _ (selAt_lt m j) (by omega), if_pos ⟨hj, rfl, hk⟩, hmoved, herr]
  · rw [weightAt_trainMixer, weightAt_trainBanks _ _ _ _ hc hk, if_neg (by omega)]
  · rw [blendAt_trainMixer_active pr y m hmany hj hlen, hmoved, herr]

end Sys2Proof.Machine
end

section
/-! The APM (44_mixer_apm.md R308, R309): the point of the interpolation, and the entry that is trained. -/

namespace Sys2Proof.Machine

/-- R308: `u` lies in 1..4095, so the entries `lo` and `lo + 1` and the nearer of the two lie inside a row of 33. -/
theorem apmPoint_bounds {d : Int} (hlo : -2047 ≤ d) (hhi : d ≤ 2047) : 1 ≤ apmPoint d ∧ apmPoint d ≤ 4095 := by
  unfold apmPoint
  omega

theorem apmBucket_eq (d : Int) : apmBucket d = apmPoint d / 128 + apmPoint d % 128 / 64 := rfl

theorem predict_pFinal_of_enabled (m : Mixer) {a : Apm} (h : a.enabled = true) :
    (predict m a).pFinal = clampP (apmInterpolate a (mixOf m)) := if_pos h

section
variable (pr : Prediction) (y : Bool) {a : Apm} (h : a.enabled = true)
include h

theorem trainApm_of_enabled :
    trainApm pr y a = setApm a a.ctx.toNat pr.bucket (adapt16 (apmAt a a.ctx.toNat pr.bucket) y a.rate.toNat) := if_pos h

theorem apmAt_trainApm_same :
    apmAt (trainApm pr y a) a.ctx.toNat pr.bucket = adapt16 (apmAt a a.ctx.toNat pr.bucket) y a.rate.toNat := by
  rw [trainApm_of_enabled pr y h, apmAt_setApm_same]

theorem apmAt_trainApm_other (hbucket : pr.bucket ≤ 32) {c k : Nat} (hk : k ≤ 32)
    (hother : c ≠ a.ctx.toNat ∨ k ≠ pr.bucket) : apmAt (trainApm pr y a) c k = apmAt a c k := by
  rw [trainApm_of_enabled pr y h]
  exact apmAt_setApm_other a _ (by rw [Ne, apmKey_inj (by omega) (by omega)]; omega)

end

/-- Settles O44: the point of a clamped mix keeps both entries in the row, and training writes the nearer one. -/
theorem apmInterpolatesAndTrainsTheNearerEntry : Obligations.ApmInterpolatesAndTrainsTheNearerEntry := by
  intro m a y henabled pr u lo w t
  obtain ⟨hlo, hhi⟩ := mixOf_bounds m
  obtain ⟨hone, hmax⟩ : 1 ≤ u ∧ u ≤ 4095 := apmPoint_bounds hlo hhi
  have hbucket : pr.bucket = lo + w / 64 := apmBucket_eq (mixOf m)
  have hrow : pr.bucket ≤ 32 := by omega
  refine ⟨⟨hone, hmax, by omega, hbucket, hrow⟩, ?_, apmAt_trainApm_same pr y henabled,
    fun c k hk hother => apmAt_trainApm_other pr y henabled hrow hk hother, trainApm_fields pr y a⟩
  rw [predict_pFinal_of_enabled m henabled, clampP, min_comm]
  rfl

end Sys2Proof.Machine
end

section
/-! The DMC forest (45_dmc.md R353 to R362): what DMC_MIX pushes, and a predictor after a coded bit and at a byte boundary. -/

namespace Sys2Proof.Machine

/-- Settles O57: START and the byte reset build a sound predictor, and the update of a bit keeps one sound. -/
theorem stepKeepsForestSound : Obligations.StepKeepsForestSound := fun _ _ => step_keeps_forestInv

/-! ### DMC_MIX (R353, R354) -/

theorem clampP_eq (p : Nat) : clampP p = max 1 (min 4094 p) := by rw [clampP, min_comm]

theorem countEstimate_eq (nd : Node) : countEstimate nd =
    if nd.c0.toNat + nd.c1.toNat = 0 then 2048
    else max 1 (min 4094 (nd.c1.toNat * 4096 / (nd.c0.toNat + nd.c1.toNat))) := by
  rw [countEstimate, clampP_eq]

/-- In a session DMC_MIX checks the room for its ten inputs alone. -/
theorem expectedError_dmcMix {s : State} (h : s.mode ≠ .idle) : expectedError .dmcMix s =
    if s.mixer.n.toNat < s.mixer.count.toNat + 10 then some .ovf else none := by
  have hmode : s.mode ∈ allowedModes .dmcMix := mode_mem_session h
  simp [expectedError, hmode, phaseHolds, Instr.operandsLegal, pushedBy, needsCount]

theorem exec_dmcMix {s : State} (hmode : s.mode ≠ .idle) (hroom : s.mixer.count.toNat + 10 ≤ s.mixer.n.toNat) :
    exec .dmcMix s = .next { consume 1 s with mixer := pushInputs s.mixer (dmcInputs s.dmc) } :=
  exec_of_ready (by rw [expectedError_dmcMix hmode, if_neg (not_lt.mpr hroom)]) (available_zero s)

theorem dmcInputs_getElem {f : Forest} {i : Nat} (h : i < (dmcInputs f).length) :
    (dmcInputs f)[i] = dmcInput f.scale (instAt f i) := by
  have hi : i < f.insts.length := dmcInputs_length f ▸ h
  simp [dmcInputs, instAt, List.getD_eq_getElem?_getD, hi]

theorem dmcInput_toInt (scale : Half) (d : DmcInst) : (dmcInput scale d).toInt =
    max (-32768) (min 32767 ((stretch (countEstimate (nodeAt d d.curr.toNat)) +
      stretch (smP (smdAt d (nodeAt d d.curr.toNat).st))) * (scale.toNat : Int) / 256)) :=
  sat16_scaleQ8_toInt _ _

/-- Settles O46: the two faults, and the pushes as they are read back predictor by predictor. -/
theorem dmcMixPushesEveryInstance : Obligations.DmcMixPushesEveryInstance := by
  refine ⟨fun s => ⟨fun hidle => ?_, fun hmode hroom => ?_⟩, fun s hmode hinsts hroom => ?_⟩
  · exact exec_of_error (expectedError_of_mode (by simp [allowedModes, hidle]))
  · exact exec_of_error (by rw [expectedError_dmcMix hmode, if_pos hroom])
  · have hlength : (dmcInputs s.dmc).length = 10 := (dmcInputs_length s.dmc).trans hinsts
    obtain ⟨hcount, hpushed, hother, hfields⟩ :=
      pushInputs_spec (dmcInputs s.dmc) s.mixer (hlength ▸ hroom.trans_lt s.mixer.n.isLt)
    rw [hlength] at hcount hother
    refine ⟨_, exec_dmcMix hmode hroom, ?_, hcount, hother, fun i hi => ?_⟩
    · exact congrArg (fun m => { consume 1 s with mixer := m }) hfields
    · rw [hpushed i (hlength ▸ hi), dmcInputs_getElem, dmcInput_toInt, countEstimate_eq, smP_eq]

/-! ### The byte reset (R361, R362) -/

theorem dmcByteReset_of_full {c : Cfg} {i : Nat} {d : DmcInst} (hreset : c.resettable i = true)
    (hfull : c.cap i * 1024 < d.extra.toNat) (byte : Byte) :
    dmcByteReset c byte i d = { dmcInit c i d with curr := BitVec.ofNat 28 (byte.toNat * 255) } :=
  if_pos (by simp [hreset, isFull, hfull])

theorem dmcByteReset_of_not_full {c : Cfg} {i : Nat} {d : DmcInst}
    (h : c.resettable i = false ∨ d.extra.toNat ≤ c.cap i * 1024) (byte : Byte) : dmcByteReset c byte i d = d := by
  refine if_neg ?_
  rw [Bool.and_eq_true, isFull, decide_eq_true_iff]
  rintro ⟨hreset, hfull⟩
  obtain hkept | hroom := h
  · exact absurd hreset (hkept ▸ Bool.false_ne_true)
  · exact absurd hfull (not_lt.mpr hroom)

/-- The root of a byte's tree (R352) fits CURR. -/
theorem treeRoot_toNat (byte : Byte) : (BitVec.ofNat 28 (byte.toNat * 255)).toNat = byte.toNat * 255 := by
  have hbyte := byte.isLt
  rw [BitVec.toNat_ofNat]
  exact Nat.mod_eq_of_lt (by omega)

/-- Settles O48: the two branches of the byte reset; an emptied table reads as the initial graph. -/
theorem dmcByteResetOfAFullInstance : Obligations.DmcByteResetOfAFullInstance := by
  refine fun c byte i d => ⟨fun hreset hfull => ?_, fun h => dmcByteReset_of_not_full h byte⟩
  rw [dmcByteReset_of_full hreset hfull]
  exact ⟨rfl, treeRoot_toNat byte, rfl, rfl, fun _ => rfl, rfl⟩

end Sys2Proof.Machine
end

section
/-! The update of a DMC predictor by a coded bit (45_dmc.md R356 to R360). -/

namespace Sys2Proof.Machine

/-! ### The visit of the current node (R356 step 2, R357) -/

/-- A node once a bit is coded at it: both counts decayed and the bit counted, the state advanced. -/
def visited (c : Cfg) (y : Bool) (v : Node) : Node :=
  { v with c0 := decay v.c0 (!y), c1 := decay v.c1 y, st := bhNext c.bhTable v.st y }

@[simp] theorem nodeNext_visited (c : Cfg) (y : Bool) (v : Node) (z : Bool) :
    nodeNext (visited c y v) z = nodeNext v z := rfl

/-- The update of a predictor up to step 3 of R356. -/
def dmcVisit (c : Cfg) (y : Bool) (d : DmcInst) : DmcInst :=
  dmcStateUpdate c d.curr.toNat y (dmcDecay d.curr.toNat y d)

section
variable (c : Cfg) (y : Bool) (d : DmcInst)

@[simp] theorem dmcVisit_top : (dmcVisit c y d).top = d.top := rfl
@[simp] theorem dmcVisit_curr : (dmcVisit c y d).curr = d.curr := rfl
@[simp] theorem dmcVisit_thr : (dmcVisit c y d).thr = d.thr := rfl
@[simp] theorem dmcVisit_extra : (dmcVisit c y d).extra = d.extra := rfl

theorem nodeAt_dmcVisit (x : Nat) : nodeAt (dmcVisit c y d) x =
    if x = d.curr.toNat then visited c y (nodeAt d d.curr.toNat) else nodeAt d x := by
  simp only [dmcVisit, dmcStateUpdate, dmcDecay, nodeAt_setNode, nodeAt_setSmd, if_true]
  split <;> rfl

theorem nodeAt_dmcVisit_curr : nodeAt (dmcVisit c y d) d.curr.toNat = visited c y (nodeAt d d.curr.toNat) := by
  rw [nodeAt_dmcVisit, if_pos rfl]

theorem nodeAt_dmcVisit_other {x : Nat} (hx : x ≠ d.curr.toNat) : nodeAt (dmcVisit c y d) x = nodeAt d x := by
  rw [nodeAt_dmcVisit, if_neg hx]

/-- The visit trains the state map at the state the node had before. -/
theorem smdAt_dmcVisit (x : Byte) : smdAt (dmcVisit c y d) x =
    if x = (nodeAt d d.curr.toNat).st then adapt16 (smdAt d (nodeAt d d.curr.toNat).st) y c.smRate else smdAt d x := by
  have hst : (nodeAt (dmcDecay d.curr.toNat y d) d.curr.toNat).st = (nodeAt d d.curr.toNat).st := by
    rw [dmcDecay, nodeAt_setNode_same]
  rw [dmcVisit, dmcStateUpdate, hst, smdAt_setNode]
  split
  · next h => rw [h, smdAt_setSmd_same]; rfl
  · next h => exact smdAt_setSmd_other _ _ h

end

/-! ### The ripe edge (R356 step 3) -/

/-- The count of the bit at the current node, before the decay. -/
def edgeCount (y : Bool) (d : DmcInst) : Nat := (if y then (nodeAt d d.curr.toNat).c1 else (nodeAt d d.curr.toNat).c0).toNat

/-- The node the bit leads to. -/
def edgeTarget (y : Bool) (d : DmcInst) : Nat := (nodeNext (nodeAt d d.curr.toNat) y).toNat

/-- R356 asks for a clone: the edge's count, and the rest of the target's total, exceed the threshold. -/
abbrev EdgeRipe (y : Bool) (d : DmcInst) : Prop :=
  d.thr.toNat < edgeCount y d ∧ edgeCount y d + d.thr.toNat < nodeTotal (nodeAt d (edgeTarget y d))

theorem dmcUpdate_eq (c : Cfg) (y : Bool) (i : Nat) (d : DmcInst) : dmcUpdate c y i d =
    let grown := dmcGrow c i d.curr.toNat y (edgeCount y d) (dmcVisit c y d)
    { grown with curr := nodeNext (nodeAt grown d.curr.toNat) y } := rfl

theorem dmcGrow_smd (c : Cfg) (i k : Nat) (y : Bool) (n : Nat) (d : DmcInst) : (dmcGrow c i k y n d).smd = d.smd := by
  unfold dmcGrow
  extract_lets t total
  split
  · split <;> rfl
  · rfl

/-- Growth and the move along the edge leave the state map to the visit. -/
theorem smdAt_dmcUpdate (c : Cfg) (y : Bool) (i : Nat) (d : DmcInst) (x : Byte) :
    smdAt (dmcUpdate c y i d) x = smdAt (dmcVisit c y d) x :=
  congrArg (tableGet smInit · x.toNat) (dmcGrow_smd ..)

theorem mul_div_le_of_le (count : Nat) {n total : Nat} (h : n ≤ total) : count * n / total ≤ count :=
  Nat.div_le_of_le_mul (mul_comm total count ▸ Nat.mul_le_mul_left count h)

theorem share_toNat {n total : Nat} (h : n ≤ total) (count : Half) : (share count n total).toNat = count.toNat * n / total :=
  Nat.mod_eq_of_lt ((mul_div_le_of_le _ h).trans_lt count.isLt)

/-- What a share leaves of its count. -/
theorem sub_share_toNat {n total : Nat} (h : n ≤ total) (count : Half) :
    (count - share count n total).toNat = count.toNat - count.toNat * n / total := by
  have hle : (share count n total).toNat ≤ count.toNat := (share_toNat h count).trans_le (mul_div_le_of_le _ h)
  rw [BitVec.toNat_sub_of_le hle, share_toNat h]

theorem withChild_eq (v : Node) (y : Bool) (x : BitVec 28) :
    withChild v y x = { v with nx0 := if y then v.nx0 else x, nx1 := if y then x else v.nx1 } := by
  cases y <;> rfl

section
variable {c : Cfg} {i : Nat} {d : DmcInst} (h : InstInv c i d) (y : Bool)
include h

/-- No edge of the current node leads back to it (R364). -/
theorem edgeTarget_ne_curr : edgeTarget y d ≠ d.curr.toNat := h.noSelfLoop _ h.curr y

theorem edgeTarget_lt_top : edgeTarget y d < d.top.toNat := h.children _ h.curr y

/-- The visit changes neither the edge nor the target, so growth decides on what they were before it. -/
theorem dmcGrow_dmcVisit : dmcGrow c i d.curr.toNat y (edgeCount y d) (dmcVisit c y d) =
    if EdgeRipe y d then
      if d.top.toNat < c.cap i then
        dmcClone (c.thrCap i) d.curr.toNat (edgeTarget y d) y (edgeCount y d)
          (nodeTotal (nodeAt d (edgeTarget y d))) (dmcVisit c y d)
      else dmcSkip (edgeCount y d) (dmcVisit c y d)
    else dmcVisit c y d := by
  have htarget : (nodeNext (nodeAt (dmcVisit c y d) d.curr.toNat) y).toNat = edgeTarget y d := by
    rw [nodeAt_dmcVisit_curr, nodeNext_visited, edgeTarget]
  unfold dmcGrow
  simp only [htarget, nodeAt_dmcVisit_other c y d (edgeTarget_ne_curr h y), dmcVisit_thr, dmcVisit_top]

/-! ### A clone (R358) -/

/-- A ripe edge of a predictor with room is cloned, and led to the new node. -/
theorem dmcUpdate_of_clone (hripe : EdgeRipe y d) (hroom : d.top.toNat < c.cap i) : dmcUpdate c y i d =
    let clone := dmcClone (c.thrCap i) d.curr.toNat (edgeTarget y d) y (edgeCount y d)
      (nodeTotal (nodeAt d (edgeTarget y d))) (dmcVisit c y d)
    { clone with curr := nodeNext (nodeAt clone d.curr.toNat) y } := by
  rw [dmcUpdate_eq, dmcGrow_dmcVisit h, if_pos hripe, if_pos hroom]

/-- The nodes after a clone: the current one, visited and with its edge led to the new node; the new node, with its share of
the target's counts; the target, with the rest of them; and all others as they were. -/
theorem nodeAt_dmcUpdate_of_clone (hripe : EdgeRipe y d) (hroom : d.top.toNat < c.cap i) (x : Nat) :
    let tg := nodeAt d (edgeTarget y d)
    nodeAt (dmcUpdate c y i d) x =
      if x = d.curr.toNat then withChild (visited c y (nodeAt d d.curr.toNat)) y (BitVec.ofNat 28 d.top.toNat)
      else if x = d.top.toNat then
        { tg with c0 := share tg.c0 (edgeCount y d) (nodeTotal tg), c1 := share tg.c1 (edgeCount y d) (nodeTotal tg) }
      else if x = edgeTarget y d then
        { tg with c0 := tg.c0 - share tg.c0 (edgeCount y d) (nodeTotal tg)
                  c1 := tg.c1 - share tg.c1 (edgeCount y d) (nodeTotal tg) }
      else nodeAt d x := by
  have htarget := edgeTarget_ne_curr h y
  have hmoved (e : DmcInst) (v : BitVec 28) : nodeAt { e with curr := v } x = nodeAt e x := rfl
  rw [dmcUpdate_of_clone h y hripe hroom]
  dsimp only
  rw [hmoved, nodeAt_dmcClone _ _ _ _ (dmcVisit c y d) h.curr.ne (edgeTarget_lt_top h y).ne htarget.symm,
    nodeAt_dmcVisit_curr, nodeAt_dmcVisit_other c y d htarget]
  simp only [dmcVisit_top]
  split
  · rfl
  · next hcurr => rw [nodeAt_dmcVisit_other c y d hcurr]

/-- The registers after a clone (R356, R358): TOP and the threshold rise, and CURR is the new node. -/
theorem dmcUpdate_registers_of_clone (hb : DmcBounds c i) (hripe : EdgeRipe y d) (hroom : d.top.toNat < c.cap i) :
    (dmcUpdate c y i d).top.toNat = d.top.toNat + 1 ∧ (dmcUpdate c y i d).curr.toNat = d.top.toNat ∧
    (dmcUpdate c y i d).extra = d.extra ∧ (dmcUpdate c y i d).thr.toNat = min (d.thr.toNat + 1) (c.thrCap i) := by
  have hcap := hb.capHigh
  have hthrCap := hb.thrHigh
  have htop : (d.top + 1).toNat = d.top.toNat + 1 := BitVec.toNat_add_of_lt (by simp; omega)
  have hlink : (BitVec.ofNat 28 d.top.toNat).toNat = d.top.toNat := Nat.mod_eq_of_lt (by omega)
  have hthr : (BitVec.ofNat 32 (min (d.thr.toNat + 1) (c.thrCap i))).toNat = min (d.thr.toNat + 1) (c.thrCap i) :=
    Nat.mod_eq_of_lt (by omega)
  have hcurr : (dmcUpdate c y i d).curr = BitVec.ofNat 28 d.top.toNat := by
    have hedge : (dmcUpdate c y i d).curr = nodeNext (nodeAt (dmcUpdate c y i d) d.curr.toNat) y := rfl
    rw [hedge, nodeAt_dmcUpdate_of_clone h y hripe hroom, if_pos rfl, nodeNext_withChild, if_pos rfl]
  rw [hcurr, dmcUpdate_of_clone h y hripe hroom]
  exact ⟨htop, hlink, rfl, hthr⟩

/-! ### No clone (R359) -/

/-- Without a clone the predictor moves along the visited node's edge, and a ripe edge's count is added to EXTRA. -/
theorem dmcUpdate_of_no_clone (hno : ¬ EdgeRipe y d ∨ c.cap i ≤ d.top.toNat) : ∃ extra : Long,
    dmcUpdate c y i d = { dmcVisit c y d with curr := nodeNext (nodeAt d d.curr.toNat) y, extra := extra } ∧
    extra.toNat = if EdgeRipe y d then min (d.extra.toNat + edgeCount y d) (2 ^ 64 - 1) else d.extra.toNat := by
  have hedge : nodeNext (nodeAt (dmcVisit c y d) d.curr.toNat) y = nodeNext (nodeAt d d.curr.toNat) y := by
    rw [nodeAt_dmcVisit_curr, nodeNext_visited]
  rw [dmcUpdate_eq, dmcGrow_dmcVisit h, ← hedge]
  by_cases hripe : EdgeRipe y d
  · have hfull : ¬ d.top.toNat < c.cap i := not_lt.mpr (hno.resolve_left (not_not_intro hripe))
    rw [if_pos hripe, if_pos hripe, if_neg hfull]
    exact ⟨_, rfl, Nat.mod_eq_of_lt (by omega)⟩
  · rw [if_neg hripe, if_neg hripe]
    exact ⟨d.extra, rfl, rfl⟩

end

/-- Settles O47: the visit of the current node, the clone's registers and nodes, and the update without a clone. -/
theorem dmcUpdateCountsAndClones : Obligations.DmcUpdateCountsAndClones := by
  intro c i y d hw hi h k nd n t tg total wants z seen
  -- The statement writes the decay of R356 out; from here on it is the model's own function.
  have hseen : seen = decay := rfl
  clear_value seen
  subst hseen
  have htk : t ≠ k := edgeTarget_ne_curr h y
  have htop : t < d.top.toNat := edgeTarget_lt_top h y
  have hktop : k < d.top.toNat := h.curr
  have hsmd (x : Byte) : smdAt z x = if x = nd.st then adapt16 (smdAt d nd.st) y c.smRate else smdAt d x :=
    (smdAt_dmcUpdate c y i d x).trans (smdAt_dmcVisit c y d x)
  refine ⟨⟨(hsmd nd.st).trans (if_pos rfl), fun x hx => (hsmd x).trans (if_neg hx)⟩, fun hripe hroom => ?clone,
    fun hno => ?stay⟩
  case clone =>
    have hn : n ≤ total := by omega
    obtain ⟨hztop, hzcurr, hzextra, hzthr⟩ := dmcUpdate_registers_of_clone h y (dmc_bounds hw hi) hripe hroom
    have hnode := nodeAt_dmcUpdate_of_clone h y hripe hroom
    have hnew : nodeAt z d.top.toNat = { tg with c0 := share tg.c0 n total, c1 := share tg.c1 n total } :=
      (hnode _).trans ((if_neg hktop.ne').trans (if_pos rfl))
    have hold : nodeAt z t = { tg with c0 := tg.c0 - share tg.c0 n total, c1 := tg.c1 - share tg.c1 n total } :=
      (hnode _).trans ((if_neg htk).trans ((if_neg htop.ne).trans (if_pos rfl)))
    rw [hnew, hold]
    refine ⟨hztop, hzcurr, hzextra, hzthr, share_toNat hn _, share_toNat hn _, rfl, rfl, rfl, sub_share_toNat hn _,
      sub_share_toNat hn _, rfl, rfl, rfl, ?_, fun x hxk hxt hxtop => ?_⟩
    · exact (hnode k).trans ((if_pos rfl).trans (withChild_eq ..))
    · exact (hnode x).trans ((if_neg hxk).trans ((if_neg hxtop).trans (if_neg hxt)))
  case stay =>
    obtain ⟨extra, hz, hextra⟩ := dmcUpdate_of_no_clone h y hno
    change z = _ at hz
    clear_value z
    subst hz
    exact ⟨rfl, rfl, rfl, hextra, nodeAt_dmcVisit_curr c y d, fun _ hx => nodeAt_dmcVisit_other c y d hx⟩

end Sys2Proof.Machine
end

section
/-! The checks of 60_exceptions.md R404 against exec: the fault, the effect or the wait of every command (R401, R402,
40_pipeline.md R170). -/

namespace Sys2Proof.Machine

/-- No effect raises an error or takes a word of the command port. -/
theorem effectOf_errors_and_commands (i : Instr) (s : State) :
    (effectOf i s).errCode = s.errCode ∧ (effectOf i s).errCmd = s.errCmd ∧
    (effectOf i s).ports.cmd = s.ports.cmd := by
  cases i
  case startDec => rw [effectOf, startDecEffect, shiftInBytes_eq]; exact ⟨rfl, rfl, rfl⟩
  case flush => rw [effectOf, flushEffect_eq]; exact ⟨rfl, rfl, rfl⟩
  case encBit imm =>
    have htrains := stepEnc_trains (immBit imm) s
    exact ⟨htrains.errCode, htrains.errCmd, by rw [effectOf, (stepEnc_ports _ s).1]⟩
  case decBit =>
    have htrains := stepDec_trains s
    exact ⟨htrains.errCode, htrains.errCmd, by rw [effectOf, decBitEffect_ports]⟩
  all_goals exact ⟨rfl, rfl, rfl⟩

/-- Settles O9: the verdict of the checks picks the fault, the effect, which raises nothing and takes no further word, or
the wait. -/
theorem checksDecideEveryCommand : Obligations.ChecksDecideEveryCommand := by
  refine fun i s => ⟨fun _ => exec_of_error, fun hnone hbytes => ?effect, exec_of_waiting⟩
  case effect =>
    obtain ⟨hcode, hcmd, hwords⟩ := effectOf_errors_and_commands i (consume i.words s)
    exact ⟨_, exec_of_ready hnone hbytes, effectOf_halt i _, hcode, hcmd, hwords⟩

end Sys2Proof.Machine
end

section
/-! The statements of 70_reset_and_hazards.md on hardware reset (R440): the values it leaves, row by row, and the invariants
they meet. -/

namespace Sys2Proof.Machine

/-- Settles O52: each unit's reset values meet its own invariant. -/
theorem invariantsHoldAtReset : Obligations.InvariantsHoldAtReset := fun _ hw => resetWith_coreInv hw

/-! ### The register files and the slots -/

/-- Hardware reset selects context 0 in every bank; a bank the core does not have reads as 0 too. -/
theorem selAt_resetMixer (c : Cfg) (j : Nat) : selAt (resetMixer c) j = 0 := by
  simp only [selAt, resetMixer, freshMixer, List.getD_eq_getElem?_getD, List.getElem?_replicate]
  split <;> rfl

/-- With one active bank its share is the whole of 65536. -/
theorem blendAt_resetMixer {c : Cfg} {j : Nat} (hj : j < c.mxNsel) : blendAt (resetMixer c) j = 65536 := by
  simp [resetMixer, blendAt_freshMixer hj]

theorem slotByte_slotInit (n i : Nat) : slotByte (slotInit n) i = 0 := by
  unfold slotByte
  split <;> rfl

/-! ### The initial graph (45_dmc.md R352), by tree and offset -/

/-- A node of tree p has its children below it in its own tree, or, in the last row, at the roots of two trees. -/
theorem nodeInit_of_tree {p j : Nat} (hp : p < 256) (hj : j < 255) :
    nodeInit (p * 255 + j) =
      if j < 127 then ⟨1024, 1024, BitVec.ofNat 28 (p * 255 + 2 * j + 1), BitVec.ofNat 28 (p * 255 + 2 * j + 2), 0⟩
      else ⟨1024, 1024, BitVec.ofNat 28 (2 * (j - 127) * 255), BitVec.ofNat 28 ((2 * (j - 127) + 1) * 255), 0⟩ := by
  have hgraph : p * 255 + j < initialTop := by unfold initialTop; omega
  have htree : (p * 255 + j) / 255 = p := by omega
  have hoffset : (p * 255 + j) % 255 = j := by omega
  rw [nodeInit, if_pos hgraph]
  simp only [htree, hoffset, Nat.add_zero]

/-- No node stands at or above the initial top. -/
theorem nodeInit_of_top_le {n : Nat} (hn : initialTop ≤ n) : nodeInit n = ⟨0, 0, 0, 0, 0⟩ := if_neg hn.not_gt

theorem nodeAt_freshInst (c : Cfg) (i n : Nat) : nodeAt (freshInst c i) n = nodeInit n := rfl

/-! ### The table of R440 -/

/-- Settles O11, row by row: the registers are written out in the state built; a register file reads as the value that fills
it, and an emptied table as its initial value. -/
theorem resetValues : Obligations.ResetValues := by
  refine ⟨fun _ => rfl, ?_⟩
  rintro c _ rfl
  refine ⟨⟨rfl, rfl, rfl, rfl, rfl⟩, ⟨rfl, rfl, rfl, rfl, rfl, rfl⟩, ⟨rfl, rfl, rfl, rfl⟩, ⟨rfl, rfl, rfl, rfl, rfl⟩,
    fun j hj => ⟨selAt_resetMixer c j, blendAt_resetMixer hj⟩, weightAt_freshMixer c _, ⟨rfl, rfl, rfl⟩,
    fun x _ hk => apmAt_freshApm resetApm x hk, ⟨rfl, rfl⟩, fun l _ => ?lane,
    fun b k => ⟨rfl, slotByte_slotInit (slotKey b k), rfl⟩, fun _ _ => ⟨rfl, rfl⟩, fun i hi => ?inst,
    ⟨rfl, rfl, rfl, rfl, rfl⟩⟩
  case lane =>
    have hlane : laneAt (State.resetWith c).cm l = freshLane := laneAt_freshCm c _ l
    rw [hlane]
    exact ⟨rfl, rfl, rfl, rfl⟩
  case inst =>
    have hinst : instAt (State.resetWith c).dmc i = freshInst c i := instAt_freshForest c _ hi
    rw [hinst]
    refine ⟨rfl, rfl, rfl, rfl, fun _ => rfl, fun p j hp hj => ?inner, fun p j hp hlow hj => ?lastRow, fun n hn => ?above⟩
    case inner => rw [nodeAt_freshInst, nodeInit_of_tree hp (by omega), if_pos hj]
    case lastRow => rw [nodeAt_freshInst, nodeInit_of_tree hp hj, if_neg hlow.not_gt]
    case above => exact nodeInit_of_top_le hn

end Sys2Proof.Machine
end
